-- ==== Sys2Proof/Word.lean ====
section
/-! DEFINITION. The word types of QIXY-CORE: bytes, 32-bit register words, 4-bit colour indices and RGB triples. -/

namespace Sys2Proof

/-- One byte: an element of `PIX`, `BMP`, `SCR` or `COL`, or one RGB component (CBITS = 8; 00_scope.md R7). -/
abbrev Byte := BitVec 8

/-- A register or command word (REGW = 32; 00_scope.md R7). -/
abbrev Word := BitVec 32

/-- A colour index 0..15 (NCOL = 16; 00_scope.md R5). -/
abbrev Color := BitVec 4

/-- The code of one sample, 0..3 (30_encoding.md R78). -/
abbrev Code := BitVec 2

/-- A host byte address (ABITS = 17; 00_scope.md R7). -/
abbrev HostAddr := BitVec 17

/-- An RGB triple, components 0..255 (00_scope.md R6, 10_state.md R21). -/
structure Rgb where
  r : Byte
  g : Byte
  b : Byte
  deriving DecidableEq, Repr

/-- The palette: 16 entries, position = colour index (10_state.md R21). -/
abbrev Palette := Vector Rgb 16

/-- `PAL[k]`: total, since a colour index is always below 16 (00_scope.md R12). -/
def Palette.entry (p : Palette) (k : Color) : Rgb := p[k.toNat]'(k.isLt)

end Sys2Proof
end

