-- ==== Sys2Proof/Config.lean ====
section
/-! DEFINITION. What is fixed for the machine (00_scope.md R5, R7) and the values the spec leaves open, each an
opaque constant without a body: nothing can be proved about which value it is. -/

namespace Sys2Proof

/-- A legal palette has pairwise distinct entries (00_scope.md R6 (iii)). -/
abbrev Palette.Legal (p : Palette) : Prop := p.toList.Nodup

/-- A palette together with its legality: what an implementation may fix as `PAL` (00_scope.md R6). -/
structure LegalPalette where
  table : Palette
  legal : table.Legal
  deriving DecidableEq, Repr

namespace Config

/-- GW (00_scope.md R5). -/
def gridColumns : Nat := 320

/-- GH (00_scope.md R5). -/
def gridRows : Nat := 200

/-- NPIX = GW·GH (00_scope.md R5). -/
def pixelCount : Nat := 64000

/-- CW (00_scope.md R5). -/
def cellColumns : Nat := 40

/-- NCELL (00_scope.md R5). -/
def cellCount : Nat := 1000

/-- NSAMP (00_scope.md R5). -/
def sampleCount : Nat := 32

/-- BMPSZ (00_scope.md R5). -/
def bmpSize : Nat := 8000

/-- SCRSZ (00_scope.md R5). -/
def scrSize : Nat := 1000

/-- COLSZ (00_scope.md R5). -/
def colSize : Nat := 1000

/-- The constant `ID` register, the ASCII bytes "QIXY" (10_state.md R34). -/
def idWord : Word := 0x51495859#32

/-- That legal palettes exist. Used only to show that `openPalette` has a type with a member; no rule or
statement rests on these components. -/
def someLegalPalette : LegalPalette where
  table := Vector.ofFn fun i => ⟨BitVec.ofNat 8 i.val, 0#8, 0#8⟩
  legal := by decide +kernel

/-- FREE VALUE. The open parameter `PAL` (00_scope.md R6, 92_eei_decisions.md D2): some legal palette.
Log entry 4. -/
opaque openPalette [Inhabited LegalPalette] : LegalPalette

/-- The machine's palette (log entry 4). -/
def palette : LegalPalette := @openPalette ⟨someLegalPalette⟩

/-- FREE VALUE. What a byte of `PIX`, `BMP`, `SCR` or `COL`, named by its host address, holds while nothing has
written it since draw `draw`: power-on is draw 0 (70_reset_and_hazards.md R172), a reset that strikes a busy block
is a later draw for the three buffers (R171). Log entries 5 and 6. -/
opaque storedByte : (draw address : Nat) → Byte

/-- FREE VALUE. What a host read of a `BMP`, `SCR` or `COL` byte returns while BUSY = 1, one draw per read
(20_memory.md R54). Log entry 7. -/
opaque anyByte : (draw : Nat) → Byte

/-- FREE VALUE. What a host read of `BG` or `IDX` returns while BUSY = 1, one draw per read (20_memory.md R54).
Log entry 7. -/
opaque anyColor : (draw : Nat) → Color

/-- FREE VALUE. What `PEND` holds after a reset action (70_reset_and_hazards.md R171). Log entry 8. -/
opaque anyWord : (draw : Nat) → Word

/-- FREE VALUE. `T_BUSY` of one accepted command: how many host inputs at most take effect before its completion,
finite and otherwise open (00_scope.md R7, 70_reset_and_hazards.md R178). Log entry 2. -/
opaque busyTime : (draw : Nat) → Nat

end Config

end Sys2Proof
end

