-- ==== Sys2Proof/Syntax.lean ====
section
/-! DEFINITION. The command set QPK-1: one constructor per row of spec/opcode_table.json (30_encoding.md R71). -/

namespace Sys2Proof

/-- The six commands with their operands as 30_encoding.md R72 assembles them. -/
inductive Instr where
  /-- NOP (43_control_commands.md R140). -/
  | nop
  /-- MATCH: the RGB triple to look up (40_palette_matcher.md R92). -/
  | matchRgb (r g b : Byte)
  /-- SETBG: the background colour (43_control_commands.md R141). -/
  | setbg (k : Color)
  /-- BGSEL (42_bitmap_packer.md R121). -/
  | bgsel
  /-- QCELL: the cell index, legal below 1000 (41_cell_quantizer.md R109). -/
  | qcell (c : BitVec 10)
  /-- CONVERT (42_bitmap_packer.md R123). -/
  | convert
  deriving DecidableEq, Repr

end Sys2Proof
end

