-- ==== Sys2Proof/WellFormed.lean ====
section
/-! DEFINITION. Which terms of Instr are commands: the one operand check that the field widths do not make. -/

namespace Sys2Proof

/-- A QCELL cell index is below NCELL = 1000 (30_encoding.md R72, R74); every other operand value is legal. -/
def Instr.wellFormed : Instr → Bool
  | .nop => true
  | .matchRgb _ _ _ => true
  | .setbg _ => true
  | .bgsel => true
  | .qcell c => decide (c.toNat < Config.cellCount)
  | .convert => true

end Sys2Proof
end

