-- ==== Sys2Proof/Decode.lean ====
section
/-! DEFINITION. The command decoder and encoder, from 30_encoding.md R70 to R75. -/

namespace Sys2Proof

/-- Why a command word is no command (30_encoding.md R74). -/
inductive Illegal where
  /-- Bits 27:24 are not 0. -/
  | reservedZ
  /-- `op` is 6..15. -/
  | reservedOp
  /-- A bit of `arg` that the command does not use is 1. -/
  | nonzeroArg
  /-- QCELL with a cell index of 1000..1023. -/
  | cellRange
  /-- Not the four bytes of a command word (the byte-lane view of 20_memory.md R53 only). -/
  | byteCount
  deriving DecidableEq, Repr

/-- `op`, bits 31:28 (30_encoding.md R70). -/
def opField (w : Word) : BitVec 4 := w.extractLsb' 28 4

/-- `z`, bits 27:24 (30_encoding.md R70). -/
def zField (w : Word) : BitVec 4 := w.extractLsb' 24 4

/-- `arg`, bits 23:0 (30_encoding.md R70). -/
def argField (w : Word) : BitVec 24 := w.extractLsb' 0 24

/-- `Decode` of 30_encoding.md R73, total on all 2^32 words. The order of its tests is the rule's. -/
def decodeWord (w : Word) : Except Illegal Instr :=
  if zField w ≠ 0#4 then .error .reservedZ
  else if opField w = 0#4 then
    if argField w = 0#24 then .ok .nop else .error .nonzeroArg
  else if opField w = 1#4 then
    .ok (.matchRgb (w.extractLsb' 16 8) (w.extractLsb' 8 8) (w.extractLsb' 0 8))
  else if opField w = 2#4 then
    if w.extractLsb' 4 20 = 0#20 then .ok (.setbg (w.extractLsb' 0 4)) else .error .nonzeroArg
  else if opField w = 3#4 then
    if argField w = 0#24 then .ok .bgsel else .error .nonzeroArg
  else if opField w = 4#4 then
    if w.extractLsb' 10 14 ≠ 0#14 then .error .nonzeroArg
    else if (w.extractLsb' 0 10).toNat < Config.cellCount then .ok (.qcell (w.extractLsb' 0 10))
    else .error .cellRange
  else if opField w = 5#4 then
    if argField w = 0#24 then .ok .convert else .error .nonzeroArg
  else .error .reservedOp

/-- The word of a command (30_encoding.md R75). -/
def encode : Instr → Word
  | .nop => 0x00000000#32
  | .matchRgb r g b => 0x10#8 ++ r ++ g ++ b
  | .setbg k => 0x2000000#28 ++ k
  | .bgsel => 0x30000000#32
  | .qcell c => 0x100000#22 ++ c
  | .convert => 0x50000000#32

/-- A register word on byte lanes: bits 7:0 at the lowest address (20_memory.md R53). -/
def bytesOfWord (w : Word) : List Byte :=
  [w.extractLsb' 0 8, w.extractLsb' 8 8, w.extractLsb' 16 8, w.extractLsb' 24 8]

/-- The decoder on bytes as a platform lays a command word on byte lanes (20_memory.md R53). Every command is one
32-bit word (30_encoding.md R70), so any other number of bytes is no command. -/
def decodeBytes : List Byte → Except Illegal Instr
  | [b0, b1, b2, b3] => decodeWord (b3 ++ b2 ++ b1 ++ b0)
  | _ => .error .byteCount

/-- The command word whose lowest `nbits` bits are those of `w` and whose other bits are 0. -/
def tableWord (nbits w : Nat) : Word := BitVec.ofNat 32 (w % 2 ^ nbits)

/-- The instruction the decoder reads from an opcode-table word: none where it is illegal, or longer than a
command word. -/
def decodeTableWord (nbits w : Nat) : Option Instr :=
  if nbits ≤ 32 then (decodeBytes (bytesOfWord (tableWord nbits w))).toOption else none

end Sys2Proof
end

