-- ==== Sys2Proof/Machine/State.lean ====
section
/-! DEFINITION. The state of QIXY-CORE (10_state.md R20), the inputs and outputs of its bus, and the state after
reset (10_state.md R40). -/

namespace Sys2Proof.Machine

/-- Why the machine stops with a fault: never. The four causes of 60_exceptions.md R150 do not stop the machine:
their entry (R156) is a next state, and a bus error (R160) is a response to the host. There is no constructor, so
that no step answers a fault; this is safe. -/
inductive Fault : Type
  deriving DecidableEq, Repr

/-- Why the machine refuses a step. -/
inductive Refusal : Type where
  /-- Raised only by an arm of `exec` whose instruction has no meaning yet; no arm is in that case. Safe. -/
  | notModelled (mnemonic : String)
  deriving DecidableEq, Repr

/-- One memory of the block: the bytes that something has written, by rising index. An index that is not listed
holds a byte nothing has written (log entry 5). -/
abbrev Memory := List Host.Cell

/-- One input of the outside world (00_scope.md R8): a bus transaction, or a change of the reset line. -/
inductive HostEvent where
  /-- `HostRead(addr, n)` (20_memory.md R54). -/
  | read (addr : HostAddr) (n : Nat)
  /-- `HostWrite(addr, n, v)` (20_memory.md R55). -/
  | write (addr : HostAddr) (n : Nat) (v : Word)
  /-- The `rst` input is driven to this level (70_reset_and_hazards.md R170). -/
  | rstLine (asserted : Bool)
  deriving DecidableEq, Repr

/-- The response to one bus transaction (20_memory.md R52, R54, R55). -/
inductive Reply where
  /-- `OK` to a read, with its data (a byte is zero-extended). -/
  | readOk (data : Word)
  /-- `OK` to a write. -/
  | writeOk
  /-- `BUSERR` to a read: its data is 0. -/
  | readBusErr (data : Word)
  /-- `BUSERR` to a write. -/
  | writeBusErr
  deriving DecidableEq, Repr

/-- The architectural state (10_state.md R20), the level of the reset input, and after them the model's own
fields. `ID` is the constant `Config.idWord`. -/
structure State where
  /-- `PAL`, constant (10_state.md R21). -/
  pal : Palette
  /-- `PIX` (10_state.md R22). -/
  pix : Memory
  /-- `BMP` (10_state.md R23). -/
  bmp : Memory
  /-- `SCR` (10_state.md R24). -/
  scr : Memory
  /-- `COL` (10_state.md R25). -/
  col : Memory
  /-- `BG` (10_state.md R26). -/
  bg : Color
  /-- `IDX` (10_state.md R27). -/
  idx : Color
  /-- `PEND` (10_state.md R28). What it holds while BUSY = 0 is open: log entries 8 and 20. -/
  pend : Word
  /-- `STATUS.BUSY` (10_state.md R29). -/
  busy : Bool
  /-- `STATUS.DONE` (10_state.md R29). -/
  done : Bool
  /-- `STATUS.FAULT` (10_state.md R29). -/
  fault : Bool
  /-- `STATUS.OVR` (10_state.md R29). -/
  ovr : Bool
  /-- `STATUS.BGVALID` (10_state.md R29). -/
  bgValid : Bool
  /-- `CTRL.IE` (10_state.md R30). -/
  ie : Bool
  /-- `ERR` (10_state.md R31). -/
  err : BitVec 4
  /-- `ERRINFO` (10_state.md R32). -/
  errInfo : Word
  /-- `GRIDW` (10_state.md R33). -/
  gridW : BitVec 16
  /-- `GRIDH` (10_state.md R33). -/
  gridH : BitVec 16
  /-- Whether the `rst` input is asserted (70_reset_and_hazards.md R170). -/
  rst : Bool
  /-- Model's own: the inputs still to come, the next first (log entry 1). -/
  agenda : List HostEvent
  /-- Model's own: the bus responses given so far, the oldest first (log entry 1). -/
  replies : List Reply
  /-- Model's own: how many more inputs may take effect before the pending command completes (log entry 2). -/
  busyLeft : Nat
  /-- Model's own: the number of the next draw of a free value (log entry 7). -/
  draws : Nat
  /-- Model's own: the draw that gives the unwritten bytes of `BMP`, `SCR` and `COL` (log entry 6). -/
  bufDraw : Nat
  deriving DecidableEq, Repr

/-- The machine right after power-on and reset (10_state.md R40, 70_reset_and_hazards.md R172): the registers at
the values of R40, every memory unwritten, the palette open. `PEND`, whose value the rule leaves unspecified, is 0
(log entry 8); `rst` is released and there is no input yet (log entries 1 and 9). -/
def State.reset : State where
  pal := Config.palette.table
  pix := []
  bmp := []
  scr := []
  col := []
  bg := 0#4
  idx := 0#4
  pend := 0#32
  busy := false
  done := false
  fault := false
  ovr := false
  bgValid := false
  ie := false
  err := 0#4
  errInfo := 0#32
  gridW := 320#16
  gridH := 200#16
  rst := false
  agenda := []
  replies := []
  busyLeft := 0
  draws := 1
  bufDraw := 0

end Sys2Proof.Machine
end

