-- ==== Sys2Proof/Machine/Ops.lean ====
section
/-! DEFINITION. The shared operations: the memories, the registers a command writes, fault entry (the block's
taking of an exception) and, beside it, the reset action, which is the only way out of the fault state. -/

namespace Sys2Proof.Machine

/-- The byte written last at an index, none where nothing has written it. -/
def Memory.find : Memory → Nat → Option Byte
  | [], _ => none
  | (b, w) :: m, a => if a = b then some w else Memory.find m a

/-- Writing one byte keeps the list in rising order of index. -/
def Memory.put : Memory → Nat → Byte → Memory
  | [], a, v => [(a, v)]
  | (b, w) :: m, a, v =>
    if a < b then (a, v) :: (b, w) :: m
    else if a = b then (a, v) :: m
    else (b, w) :: Memory.put m a v

/-- Writing bytes at consecutive indices. -/
def Memory.putFrom : Memory → Nat → List Byte → Memory
  | m, _, [] => m
  | m, a, v :: vs => Memory.putFrom (Memory.put m a v) (a + 1) vs

/-- The canonical form of a memory of `size` bytes: indices strictly rising and inside the memory. An unlisted index
reads as a free value, with which no byte can be compared, so every written byte stays listed (log entry 5). -/
abbrev Memory.wf (size : Nat) (m : Memory) : Prop :=
  m.Pairwise (fun x y => x.1 < y.1) ∧ ∀ x ∈ m, x.1 < size

/-- `PIX[a]` (10_state.md R22). -/
def State.pixByte (s : State) (a : Nat) : Byte :=
  (s.pix.find a).getD (Config.storedByte 0 a)

/-- `BMP[o]` (10_state.md R23). -/
def State.bmpByte (s : State) (o : Nat) : Byte :=
  (s.bmp.find o).getD (Config.storedByte s.bufDraw (0x10000 + o))

/-- `SCR[c]` (10_state.md R24). -/
def State.scrByte (s : State) (c : Nat) : Byte :=
  (s.scr.find c).getD (Config.storedByte s.bufDraw (0x12000 + c))

/-- `COL[c]` (10_state.md R25). -/
def State.colByte (s : State) (c : Nat) : Byte :=
  (s.col.find c).getD (Config.storedByte s.bufDraw (0x12400 + c))

/-- `PIX[a] <- v`, by the host only (20_memory.md R55). -/
def State.writePix (s : State) (a : Nat) (v : Byte) : State :=
  { s with pix := s.pix.put a v }

/-- `IDX <- k` (40_palette_matcher.md R92). -/
def State.setIdx (s : State) (k : Color) : State :=
  { s with idx := k }

/-- `BG <- k; STATUS.BGVALID <- 1`: the two go together wherever a command writes them (10_state.md R26). -/
def State.setBackground (s : State) (k : Color) : State :=
  { s with bg := k, bgValid := true }

/-- The causes of a fault (60_exceptions.md R150). -/
inductive FaultCode where
  | pixelRange
  | gridShape
  | illegalCmd
  | bgUnset
  deriving DecidableEq, Repr

/-- The code of a cause in `ERR` (10_state.md R31). -/
def FaultCode.bits : FaultCode → BitVec 4
  | .pixelRange => 1#4
  | .gridShape => 2#4
  | .illegalCmd => 3#4
  | .bgUnset => 4#4

/-- `Fault(code, info)` of the pseudocode (00_scope.md R12). -/
structure Trap where
  code : FaultCode
  info : Word
  deriving DecidableEq, Repr

/-- The pixel-range fault: `ERRINFO` is `(v << 24) | a` (60_exceptions.md R151). -/
def pixelTrap (v : Byte) (a : Nat) : Trap :=
  ⟨.pixelRange, v ++ BitVec.ofNat 24 a⟩

/-- The grid-shape fault: `ERRINFO` is `(GRIDH << 16) | GRIDW` (60_exceptions.md R152). -/
def shapeTrap (s : State) : Trap :=
  ⟨.gridShape, s.gridH ++ s.gridW⟩

/-- The illegal-command fault: `ERRINFO` is the pending command word (60_exceptions.md R153). -/
def illegalTrap (s : State) : Trap :=
  ⟨.illegalCmd, s.pend⟩

/-- The background-unset fault: `ERRINFO` is the pending command word (60_exceptions.md R154). -/
def bgUnsetTrap (s : State) : Trap :=
  ⟨.bgUnset, s.pend⟩

/-- `FaultEntry` (60_exceptions.md R156): nothing else changes, `DONE` among the rest. -/
def State.faultEntry (s : State) (t : Trap) : State :=
  { s with err := t.code.bits, errInfo := t.info, busy := false, fault := true }

/-- `Reset()` (70_reset_and_hazards.md R171). A reset that strikes a busy block leaves every byte of the three
buffers unspecified: they hold a new draw. `PIX`, `PAL` and the reset line are left as they are. -/
def State.performReset (s : State) : State :=
  { s with
    busy := false, done := false, fault := false, ovr := false, bgValid := false,
    ie := false, err := 0#4, errInfo := 0#32, bg := 0#4, idx := 0#4,
    gridW := 320#16, gridH := 200#16,
    pend := Config.anyWord s.draws,
    bmp := if s.busy then [] else s.bmp,
    scr := if s.busy then [] else s.scr,
    col := if s.busy then [] else s.col,
    bufDraw := if s.busy then s.draws else s.bufDraw,
    draws := s.draws + 1,
    busyLeft := 0 }

end Sys2Proof.Machine
end

