-- ==== Sys2Proof/Machine/Flags.lean ====
section
/-! DEFINITION. Every flag computation: `STATUS` as a word, what sets and clears its bits, `CTRL.IE` and the
interrupt line (10_state.md R29, R30, R37, R39). -/

namespace Sys2Proof.Machine

/-- `STATUS` as the host reads it (10_state.md R29, 20_memory.md R54). -/
def State.statusWord (s : State) : Word :=
  (BitVec.ofBool s.bgValid ++ BitVec.ofBool s.ovr ++ BitVec.ofBool s.fault ++ BitVec.ofBool s.done ++
    BitVec.ofBool s.busy).setWidth 32

/-- `CTRL` as the host reads it: bit 31 reads 0 (10_state.md R30). -/
def State.ctrlWord (s : State) : Word := (BitVec.ofBool s.ie).setWidth 32

/-- The interrupt output (10_state.md R39). -/
def State.irq (s : State) : Bool := s.ie && (s.done || s.fault)

/-- A host write of `v` to `STATUS`: ones clear DONE and OVR (10_state.md R29). -/
def State.clearStatus (s : State) (v : Word) : State :=
  { s with
    done := s.done && !v.getLsbD 1,
    ovr := s.ovr && !v.getLsbD 3 }

/-- The part of a host write of `v` to `CTRL` that is no reset: `IE <- v[0]` (10_state.md R30). -/
def State.setIe (s : State) (v : Word) : State :=
  { s with ie := v.getLsbD 0 }

/-- A dropped host write: only OVR changes (20_memory.md R55). -/
def State.overrun (s : State) : State :=
  { s with ovr := true }

/-- Acceptance of a command word (43_control_commands.md R142), with a fresh draw of `T_BUSY`. -/
def State.accept (s : State) (w : Word) : State :=
  { s with
    pend := w, done := false, busy := true,
    busyLeft := Config.busyTime s.draws, draws := s.draws + 1 }

/-- The flags of a successful completion (43_control_commands.md R143). -/
def State.markDone (s : State) : State :=
  { s with busy := false, done := true }

/-- The end of a command, all at once (43_control_commands.md R143): its writes, already applied in `r`, and the
flags of completion; or the entry of its fault on the state before it. That `PEND` keeps the ended command's word
is the model's choice (93_implementation_defined.md U15 leaves it open; log entry 20). -/
def finish (s : State) : Except Trap State → State
  | .ok t => t.markDone
  | .error e => s.faultEntry e

end Sys2Proof.Machine
end

