-- ==== Sys2Proof/Machine/Control.lean ====
section
/-! DEFINITION. The offer of a command and the control commands NOP and SETBG (43_control_commands.md). -/

namespace Sys2Proof.Machine

/-- `Offer(w)` (43_control_commands.md R142): dropped without a trace in the fault state, dropped with OVR while
busy, accepted without decoding otherwise. -/
def State.offer (s : State) (w : Word) : State :=
  if s.fault then s
  else if s.busy then s.overrun
  else s.accept w

/-- NOP (43_control_commands.md R140): no writes. -/
def execNop (s : State) : Host.Outcome State Fault Refusal :=
  .next (finish s (.ok s))

/-- SETBG (43_control_commands.md R141). -/
def execSetbg (k : Color) (s : State) : Host.Outcome State Fault Refusal :=
  .next (finish s (.ok (s.setBackground k)))

end Sys2Proof.Machine
end

