-- ==== Sys2Proof/Machine/Bus.lean ====
section
/-! DEFINITION. The host's bus: the address map (20_memory.md R51), the access rules (R52), reads (R54), writes
(R55), and the reset line (70_reset_and_hazards.md R170). -/

namespace Sys2Proof.Machine

/-- The registers of the address map (20_memory.md R51, R56). -/
inductive Reg where
  | cmd
  | status
  | ctrl
  | err
  | errInfo
  | bg
  | idx
  | gridW
  | gridH
  | id
  deriving DecidableEq, Repr

/-- What a host address names (20_memory.md R51), with the index inside a memory or the palette table. -/
inductive Region where
  | pix (a : Nat)
  | bmp (o : Nat)
  | scr (c : Nat)
  | col (c : Nat)
  | reg (r : Reg)
  | palRom (i : Color)
  | unmapped
  deriving DecidableEq, Repr

/-- The register whose word stands at place `i` from `0x13000` (20_memory.md R56). -/
def regAt (i : Nat) : Region :=
  if i = 0 then .reg .cmd
  else if i = 1 then .reg .status
  else if i = 2 then .reg .ctrl
  else if i = 3 then .reg .err
  else if i = 4 then .reg .errInfo
  else if i = 5 then .reg .bg
  else if i = 6 then .reg .idx
  else if i = 7 then .reg .gridW
  else if i = 8 then .reg .gridH
  else if i = 9 then .reg .id
  else .unmapped

/-- The host address map (20_memory.md R51). -/
def regionAt (n : Nat) : Region :=
  if n < 0x0FA00 then .pix n
  else if n < 0x10000 then .unmapped
  else if n < 0x11F40 then .bmp (n - 0x10000)
  else if n < 0x12000 then .unmapped
  else if n < 0x123E8 then .scr (n - 0x12000)
  else if n < 0x12400 then .unmapped
  else if n < 0x127E8 then .col (n - 0x12400)
  else if n < 0x13000 then .unmapped
  else if n < 0x13040 then regAt ((n - 0x13000) / 4)
  else if n < 0x13080 then .palRom (BitVec.ofNat 4 ((n - 0x13040) / 4))
  else .unmapped

/-- The region of a 17-bit host address. -/
def regionOf (addr : HostAddr) : Region := regionAt addr.toNat

/-- Whether a transaction of `n` bytes at `addr` has the region's size and alignment (20_memory.md R52). -/
def sizeFits (addr : HostAddr) (n : Nat) : Bool :=
  match regionOf addr with
  | .pix _ => n == 1
  | .bmp _ => n == 1
  | .scr _ => n == 1
  | .col _ => n == 1
  | .reg _ => n == 4 && addr.toNat % 4 == 0
  | .palRom _ => n == 4 && addr.toNat % 4 == 0
  | .unmapped => false

/-- Whether the region takes writes (20_memory.md R51). -/
def writable : Region → Bool
  | .pix _ => true
  | .bmp _ => false
  | .scr _ => false
  | .col _ => false
  | .reg .cmd => true
  | .reg .status => true
  | .reg .ctrl => true
  | .reg .err => false
  | .reg .errInfo => false
  | .reg .bg => false
  | .reg .idx => false
  | .reg .gridW => true
  | .reg .gridH => true
  | .reg .id => false
  | .palRom _ => false
  | .unmapped => false

/-- Whether a read is no bus error (20_memory.md R52; 70_reset_and_hazards.md R170 for the reset line). -/
def readAllowed (s : State) (addr : HostAddr) (n : Nat) : Bool :=
  !s.rst && sizeFits addr n

/-- Whether a write is no bus error (20_memory.md R52; 70_reset_and_hazards.md R170 for the reset line). -/
def writeAllowed (s : State) (addr : HostAddr) (n : Nat) : Bool :=
  !s.rst && sizeFits addr n && writable (regionOf addr)

/-- A response to the host. -/
def State.reply (s : State) (r : Reply) : State :=
  { s with replies := s.replies ++ [r] }

/-- One draw of a free value has been used. -/
def State.nextDraw (s : State) : State :=
  { s with draws := s.draws + 1 }

/-- A read of a byte of an output buffer: the byte, or any byte while busy (20_memory.md R54). -/
def State.readBuffer (s : State) (v : Byte) : State :=
  if s.busy then (s.reply (.readOk ((Config.anyByte s.draws).setWidth 32))).nextDraw
  else s.reply (.readOk (v.setWidth 32))

/-- A read of `BG` or `IDX`: the colour, or any colour while busy (20_memory.md R54). -/
def State.readResult (s : State) (k : Color) : State :=
  if s.busy then (s.reply (.readOk ((Config.anyColor s.draws).setWidth 32))).nextDraw
  else s.reply (.readOk (k.setWidth 32))

/-- The word of entry `i` of `PALROM` (30_encoding.md R78). -/
def palWord (pal : Palette) (i : Color) : Word :=
  0#8 ++ (pal.entry i).r ++ (pal.entry i).g ++ (pal.entry i).b

/-- A host read of a register (20_memory.md R54, R56). -/
def State.readReg (s : State) : Reg → State
  | .cmd => s.reply (.readOk 0#32)
  | .status => s.reply (.readOk s.statusWord)
  | .ctrl => s.reply (.readOk s.ctrlWord)
  | .err => s.reply (.readOk (s.err.setWidth 32))
  | .errInfo => s.reply (.readOk s.errInfo)
  | .bg => s.readResult s.bg
  | .idx => s.readResult s.idx
  | .gridW => s.reply (.readOk (s.gridW.setWidth 32))
  | .gridH => s.reply (.readOk (s.gridH.setWidth 32))
  | .id => s.reply (.readOk Config.idWord)

/-- The data a region gives to a read that is no bus error (20_memory.md R54). -/
def State.readRegion (s : State) : Region → State
  | .pix a => s.reply (.readOk ((s.pixByte a).setWidth 32))
  | .bmp o => s.readBuffer (s.bmpByte o)
  | .scr c => s.readBuffer (s.scrByte c)
  | .col c => s.readBuffer (s.colByte c)
  | .reg r => s.readReg r
  | .palRom i => s.reply (.readOk (palWord s.pal i))
  | .unmapped => s.reply (.readBusErr 0#32)

/-- `HostRead(addr, n)` (20_memory.md R52, R54). -/
def State.hostRead (s : State) (addr : HostAddr) (n : Nat) : State :=
  if readAllowed s addr n then s.readRegion (regionOf addr) else s.reply (.readBusErr 0#32)

/-- A host write of `v` to `CTRL` (10_state.md R30): bit 31 is the soft reset (43_control_commands.md R144). -/
def State.writeCtrl (s : State) (v : Word) : State :=
  if v.getLsbD 31 then s.performReset else s.setIe v

/-- `GRIDW <- v[15:0]` (10_state.md R33). -/
def State.setGridW (s : State) (v : Word) : State :=
  { s with gridW := v.setWidth 16 }

/-- `GRIDH <- v[15:0]` (10_state.md R33). -/
def State.setGridH (s : State) (v : Word) : State :=
  { s with gridH := v.setWidth 16 }

/-- What a write that is no bus error does (20_memory.md R55): while busy, writes of `PIX`, `CMD`, `GRIDW` and
`GRIDH` are dropped. -/
def State.writeRegion (s : State) (v : Word) : Region → State
  | .pix a => if s.busy then s.overrun else s.writePix a (v.setWidth 8)
  | .reg .cmd => s.offer v
  | .reg .status => s.clearStatus v
  | .reg .ctrl => s.writeCtrl v
  | .reg .gridW => if s.busy then s.overrun else s.setGridW v
  | .reg .gridH => if s.busy then s.overrun else s.setGridH v
  | .reg .err => s
  | .reg .errInfo => s
  | .reg .bg => s
  | .reg .idx => s
  | .reg .id => s
  | .bmp _ => s
  | .scr _ => s
  | .col _ => s
  | .palRom _ => s
  | .unmapped => s

/-- `HostWrite(addr, n, v)` (20_memory.md R52, R55). -/
def State.hostWrite (s : State) (addr : HostAddr) (n : Nat) (v : Word) : State :=
  if writeAllowed s addr n then (s.writeRegion v (regionOf addr)).reply .writeOk
  else s.reply .writeBusErr

/-- The reset line takes a level (70_reset_and_hazards.md R170): the reset happens at the instant it is asserted. -/
def State.driveRst (s : State) (asserted : Bool) : State :=
  if asserted && !s.rst then { s.performReset with rst := true }
  else { s with rst := asserted }

/-- One input of the outside world takes effect. -/
def State.hostStep (s : State) : HostEvent → State
  | .read addr n => s.hostRead addr n
  | .write addr n v => s.hostWrite addr n v
  | .rstLine asserted => s.driveRst asserted

end Sys2Proof.Machine
end

