-- ==== Sys2Proof/Machine/Matcher.lean ====
section
/-! DEFINITION. The Palette Matcher and MATCH (40_palette_matcher.md). -/

namespace Sys2Proof.Machine

/-- The square of one component difference, taken in the integers (40_palette_matcher.md R90). -/
def diffSquare (x y : Byte) : Nat :=
  (((x.toNat : Int) - (y.toNat : Int)) * ((x.toNat : Int) - (y.toNat : Int))).toNat

/-- `Dist(p, q)` (40_palette_matcher.md R90). -/
def distance (p q : Rgb) : Nat :=
  diffSquare p.r q.r + diffSquare p.g q.g + diffSquare p.b q.b

/-- The scan that R91, R104 and R120 share: `best` is the position of the value `bestv`, and the values that
follow stand from position `i`. A value that is not strictly better keeps the earlier position. -/
def scanBest (better : Nat → Nat → Bool) : (i best bestv : Nat) → List Nat → Nat
  | _, best, _, [] => best
  | i, best, bestv, v :: vs =>
    if better v bestv then scanBest better (i + 1) i v vs
    else scanBest better (i + 1) best bestv vs

/-- The position of the first least value (0 for no values). -/
def firstMin : List Nat → Nat
  | [] => 0
  | v :: vs => scanBest (fun x y => decide (x < y)) 1 0 v vs

/-- The position of the first greatest value (0 for no values). -/
def firstMax : List Nat → Nat
  | [] => 0
  | v :: vs => scanBest (fun x y => decide (y < x)) 1 0 v vs

/-- `Nearest(rgb)`: the least index at the least distance (40_palette_matcher.md R91). -/
def nearest (pal : Palette) (rgb : Rgb) : Color :=
  BitVec.ofNat 4 (firstMin (pal.toList.map fun p => distance p rgb))

/-- MATCH (40_palette_matcher.md R92): `IDX <- Nearest((R, G, B))`; no fault of its own. -/
def execMatch (r g b : Byte) (s : State) : Host.Outcome State Fault Refusal :=
  .next (finish s (.ok (s.setIdx (nearest s.pal ⟨r, g, b⟩))))

end Sys2Proof.Machine
end

