-- ==== Sys2Proof/Machine/Operands.lean ====
section
/-! DEFINITION. What a command reads: the Core's address computations (20_memory.md R57), the checked read of
pixels, and the grid-shape check that BGSEL, QCELL and CONVERT share. -/

namespace Sys2Proof.Machine

/-- `PixAddr(y, x)` (20_memory.md R57). -/
def pixAddr (y x : Nat) : Nat := y * Config.gridColumns + x

/-- `SampleAddr(c, i)` (20_memory.md R57): the even member of each horizontal pixel pair. -/
def sampleAddr (c i : Nat) : Nat :=
  pixAddr ((c / Config.cellColumns) * 8 + i / 4) ((c % Config.cellColumns) * 8 + (i % 4) * 2)

/-- `BmpOffset(c, r)` (20_memory.md R57). -/
def bmpOffset (c r : Nat) : Nat := c * 8 + r

/-- The addresses of a cell's 32 samples, in cell-row-major order (42_bitmap_packer.md R122). -/
def sampleAddrs (c : Nat) : List Nat :=
  (List.range' 0 Config.sampleCount).map (sampleAddr c)

/-- Every address of `PIX`, ascending (42_bitmap_packer.md R120). -/
def gridAddrs : List Nat := List.range' 0 Config.pixelCount

/-- Every cell index, in row-major order (42_bitmap_packer.md R123). -/
def cellIndices : List Nat := List.range' 0 Config.cellCount

/-- Every colour index, ascending. -/
def allColors : List Color := (List.range' 0 16).map (BitVec.ofNat 4)

/-- A command's read of one pixel: a byte above 15 faults and is never masked (60_exceptions.md R151). -/
def readColor (s : State) (a : Nat) : Except Trap Color :=
  if 15 < (s.pixByte a).toNat then .error (pixelTrap (s.pixByte a) a)
  else .ok ((s.pixByte a).setWidth 4)

/-- A command's reads of pixels in order: the first invalid one faults (60_exceptions.md R155). -/
def readColors (s : State) : List Nat → Except Trap (List Color)
  | [] => .ok []
  | a :: as =>
    match readColor s a with
    | .error t => .error t
    | .ok k =>
      match readColors s as with
      | .error t => .error t
      | .ok ks => .ok (k :: ks)

/-- Whether the declared shape is the only legal one (10_state.md R33). -/
def State.shapeOk (s : State) : Bool :=
  s.gridW == 320#16 && s.gridH == 200#16

end Sys2Proof.Machine
end

