-- ==== Sys2Proof/Machine/Quantizer.lean ====
section
/-! DEFINITION. The Cell Quantizer and QCELL (41_cell_quantizer.md). -/

namespace Sys2Proof.Machine

/-- `k1` ranks strictly before `k2` among the colours of the samples `S` (41_cell_quantizer.md R102): `CNT` is the
number of occurrences and `FIRST` the index of the first one, 32 where absent (R101). -/
def ranksBefore (S : List Color) (k1 k2 : Color) : Bool :=
  decide (S.count k2 < S.count k1) ||
    (decide (S.count k1 = S.count k2) && decide (S.idxOf k1 < S.idxOf k2))

/-- The candidates: colours present that are not the background (41_cell_quantizer.md R102). -/
def candidates (S : List Color) (bg : Color) : List Color :=
  allColors.filter fun k => k != bg && decide (0 < S.count k)

/-- Insertion of a colour into a ranked list. -/
def insertRanked (S : List Color) (k : Color) : List Color → List Color
  | [] => [k]
  | x :: xs => if ranksBefore S k x then k :: x :: xs else x :: insertRanked S k xs

/-- `RANK[0], RANK[1], ...` (41_cell_quantizer.md R102). -/
def rankedColors (S : List Color) (bg : Color) : List Color :=
  (candidates S bg).foldr (insertRanked S) []

/-- The retained colours, in slot order: the background, then `RANK[0..NSEL-1]` (41_cell_quantizer.md R103). The
colour map sends the colour at position `s` to the code `s`. -/
def retained (S : List Color) (bg : Color) : List Color :=
  bg :: (rankedColors S bg).take 3

/-- `CodeOf(k)` (41_cell_quantizer.md R104, R105): the slot of a retained colour, else the lowest of the slots whose
palette entry is nearest. -/
def codeOf (pal : Palette) (kept : List Color) (k : Color) : Code :=
  if k ∈ kept then BitVec.ofNat 2 (kept.idxOf k)
  else BitVec.ofNat 2 (firstMin (kept.map fun j => distance (pal.entry k) (pal.entry j)))

/-- One packed bitmap byte: the first sample's code in the top bits (41_cell_quantizer.md R107). -/
def packRow (code : List Code) (r : Nat) : Byte :=
  code.getD (4 * r) 0#2 ++ code.getD (4 * r + 1) 0#2 ++ code.getD (4 * r + 2) 0#2 ++ code.getD (4 * r + 3) 0#2

/-- What `QuantCell` returns (41_cell_quantizer.md R100). -/
structure CellImage where
  /-- `SLOT[0..3]`. -/
  slot : List Color
  /-- `NSEL`. -/
  nsel : Nat
  /-- `CODE[0..31]`. -/
  code : List Code
  /-- `BM[0..7]`. -/
  bm : List Byte
  /-- The screen metadata byte. -/
  scr : Byte
  /-- The colour metadata byte. -/
  col : Byte
  deriving DecidableEq, Repr

/-- `SLOT[s]`: an unused slot holds the background (41_cell_quantizer.md R103). -/
def slotColor (kept : List Color) (bg : Color) (s : Nat) : Color := kept.getD s bg

/-- `QuantCell(S, bg)` (41_cell_quantizer.md R108). -/
def quantCell (pal : Palette) (S : List Color) (bg : Color) : CellImage where
  slot := (List.range' 0 4).map (slotColor (retained S bg) bg)
  nsel := (retained S bg).length - 1
  code := S.map (codeOf pal (retained S bg))
  bm := (List.range' 0 8).map (packRow (S.map (codeOf pal (retained S bg))))
  scr := slotColor (retained S bg) bg 1 ++ slotColor (retained S bg) bg 2
  col := (slotColor (retained S bg) bg 3).setWidth 8

/-- One cell of the grid, quantized against a background: its 32 samples are read and checked in order, then
`QuantCell` (41_cell_quantizer.md R109, 42_bitmap_packer.md R122). -/
def cellImage (s : State) (bg : Color) (c : Nat) : Except Trap CellImage :=
  match readColors s (sampleAddrs c) with
  | .error t => .error t
  | .ok S => .ok (quantCell s.pal S bg)

/-- The writes of one cell: `BMP[8c..8c+7]`, `SCR[c]`, `COL[c]` (41_cell_quantizer.md R109, 42_bitmap_packer.md R124). -/
def State.writeCell (s : State) (c : Nat) (q : CellImage) : State :=
  { s with
    bmp := s.bmp.putFrom (bmpOffset c 0) q.bm,
    scr := s.scr.put c q.scr,
    col := s.col.put c q.col }

/-- QCELL's checks in their order (60_exceptions.md R155), then its reads and writes. -/
def quantizeCell (s : State) (c : Nat) : Except Trap State :=
  if Config.cellCount ≤ c then .error (illegalTrap s)
  else if !s.shapeOk then .error (shapeTrap s)
  else if !s.bgValid then .error (bgUnsetTrap s)
  else
    match cellImage s s.bg c with
    | .error t => .error t
    | .ok q => .ok (s.writeCell c q)

/-- QCELL (41_cell_quantizer.md R109). -/
def execQcell (c : BitVec 10) (s : State) : Host.Outcome State Fault Refusal :=
  .next (finish s (quantizeCell s c.toNat))

end Sys2Proof.Machine
end

