-- ==== Sys2Proof/Machine/Packer.lean ====
section
/-! DEFINITION. The Bitmap Packer: background selection, the cell loop, BGSEL and CONVERT (42_bitmap_packer.md). -/

namespace Sys2Proof.Machine

/-- The mode of the whole grid, the lowest index on a tie: `HIST[k]` is the number of pixels of colour `k`
(42_bitmap_packer.md R120). -/
def modeColor (grid : List Color) : Color :=
  BitVec.ofNat 4 (firstMax (allColors.map fun k => grid.count k))

/-- `BgSelect()` (42_bitmap_packer.md R120): every pixel is read and checked, in ascending order of address. -/
def bgSelect (s : State) : Except Trap Color :=
  match readColors s gridAddrs with
  | .error t => .error t
  | .ok grid => .ok (modeColor grid)

/-- The images of the listed cells, in their order. -/
def cellImages (s : State) (bg : Color) : List Nat → Except Trap (List CellImage)
  | [] => .ok []
  | c :: cs =>
    match cellImage s bg c with
    | .error t => .error t
    | .ok q =>
      match cellImages s bg cs with
      | .error t => .error t
      | .ok qs => .ok (q :: qs)

/-- The writes of consecutive cells from cell `c` on (42_bitmap_packer.md R123, phase 2). -/
def State.writeCells (s : State) : (c : Nat) → List CellImage → State
  | _, [] => s
  | c, q :: qs => State.writeCells (s.writeCell c q) (c + 1) qs

/-- BGSEL's check, reads and writes. -/
def selectBackground (s : State) : Except Trap State :=
  if !s.shapeOk then .error (shapeTrap s)
  else
    match bgSelect s with
    | .error t => .error t
    | .ok b => .ok (s.setBackground b)

/-- BGSEL (42_bitmap_packer.md R121). -/
def execBgsel (s : State) : Host.Outcome State Fault Refusal :=
  .next (finish s (selectBackground s))

/-- CONVERT's check, its two phases and its writes. -/
def convertGrid (s : State) : Except Trap State :=
  if !s.shapeOk then .error (shapeTrap s)
  else
    match bgSelect s with
    | .error t => .error t
    | .ok b =>
      match cellImages s b cellIndices with
      | .error t => .error t
      | .ok qs => .ok ((s.writeCells 0 qs).setBackground b)

/-- CONVERT (42_bitmap_packer.md R123). -/
def execConvert (s : State) : Host.Outcome State Fault Refusal :=
  .next (finish s (convertGrid s))

end Sys2Proof.Machine
end

