-- ==== Sys2Proof/Machine/Dispatch.lean ====
section
/-! DEFINITION. The meaning of every command: one arm per constructor of Instr. -/

namespace Sys2Proof.Machine

def exec (i : Instr) (s : State) : Host.Outcome State Fault Refusal :=
  match i with
  | .nop => Sys2Proof.Machine.execNop s
  | .matchRgb r g b => Sys2Proof.Machine.execMatch r g b s
  | .setbg k => Sys2Proof.Machine.execSetbg k s
  | .bgsel => Sys2Proof.Machine.execBgsel s
  | .qcell c => Sys2Proof.Machine.execQcell c s
  | .convert => Sys2Proof.Machine.execConvert s

end Sys2Proof.Machine
end

