-- ==== Sys2Proof/Machine/Agents.lean ====
section
/-! DEFINITION. The two agents (00_scope.md R8): the Core's completion step, the Host's next input, and which of
them moves. -/

namespace Sys2Proof.Machine

/-- `Complete()` (43_control_commands.md R143): decode the pending word, then its command, or the illegal-command
fault. -/
def complete (s : State) : Host.Outcome State Fault Refusal :=
  match decodeWord s.pend with
  | .error _ => .next (s.faultEntry (illegalTrap s))
  | .ok i => exec i s

/-- The next input leaves the agenda and takes effect. -/
def State.takeEvent (s : State) (e : HostEvent) (rest : List HostEvent) : State :=
  ({ s with agenda := rest, busyLeft := s.busyLeft - 1 } : State).hostStep e

/-- Whether the Core moves now: a command is pending, and its time is over or no input is left to wait for
(70_reset_and_hazards.md R178; log entry 2). -/
def State.coreMoves (s : State) : Bool :=
  s.busy && (s.busyLeft == 0 || s.agenda.isEmpty)

/-- One step of the whole: the Core's completion, else the Host's next input, else nothing (an idle block has no
enabled step, 60_exceptions.md R162; log entry 3). -/
def advance (s : State) : Host.Outcome State Fault Refusal :=
  if s.coreMoves then complete s
  else
    match s.agenda with
    | [] => .next s
    | e :: rest => .next (s.takeEvent e rest)

/-- A command word is pending and completes at the next step. -/
def State.withPending (s : State) (w : Word) : State :=
  { s with pend := w, busy := true, done := false, busyLeft := 0 }

end Sys2Proof.Machine
end

