-- ==== Sys2Proof/Machine/Step.lean ====
section
/-! DEFINITION. The step of the machine, and where it takes its next command from. -/

namespace Sys2Proof.Machine

/-- One step (00_scope.md R8, R10). -/
def step (s : State) : Host.Outcome State Fault Refusal := advance s

/-- `s` with the command word of the `nbits` bits `w` accepted and due: the block fetches no instructions
(10_state.md R36), its next command is the one in `PEND` (log entry 10). -/
def State.withFetchWord (s : State) (nbits w : Nat) : State :=
  s.withPending (tableWord nbits w)

end Sys2Proof.Machine
end

