-- ==== Sys2Proof/Safety.lean ====
section
/-! DEFINITION. What holds of the machine at every moment (the invariants the spec states), what a run is and when it
ended well or badly, and what the four outputs show: the terms in which claims are made. -/

namespace Sys2Proof.Machine

/-- BUSY and DONE, BUSY and FAULT, DONE and FAULT are never both 1 (10_state.md R29). -/
abbrev State.flagsOk (s : State) : Prop :=
  ¬(s.busy = true ∧ s.done = true) ∧ ¬(s.busy = true ∧ s.fault = true) ∧ ¬(s.done = true ∧ s.fault = true)

/-- An `ERRINFO` of the layout that its `ERR` code gives it (10_state.md R32, 60_exceptions.md R151 to R154). -/
def errorRecorded (code : BitVec 4) (info : Word) : Prop :=
  (code = 1#4 ∧ (info.extractLsb' 0 17).toNat < Config.pixelCount ∧ info.extractLsb' 17 7 = 0#7 ∧
      15 < (info.extractLsb' 24 8).toNat) ∨
  (code = 2#4 ∧ ¬(info.extractLsb' 0 16 = 320#16 ∧ info.extractLsb' 16 16 = 200#16)) ∨
  (code = 3#4 ∧ ∃ why, decodeWord info = .error why) ∨
  (code = 4#4 ∧ ∃ c, decodeWord info = .ok (.qcell c))

/-- `ERR` and `ERRINFO` are 0 while FAULT = 0 (10_state.md R31, R32); otherwise they record a fault. -/
def State.errorOk (s : State) : Prop :=
  (s.fault = false → s.err = 0#4 ∧ s.errInfo = 0#32) ∧ (s.fault = true → errorRecorded s.err s.errInfo)

/-- The four memories are in canonical form, inside their sizes (10_state.md R22 to R25). -/
abbrev State.memoriesOk (s : State) : Prop :=
  s.pix.wf Config.pixelCount ∧ s.bmp.wf Config.bmpSize ∧ s.scr.wf Config.scrSize ∧ s.col.wf Config.colSize

/-- Every byte that a command has written to `COL` has bits 7:4 zero (10_state.md R25). -/
abbrev State.colorBytesOk (s : State) : Prop := ∀ x ∈ s.col, x.2.toNat < 16

/-- While no background is valid, `BG` is its reset value (10_state.md R26, R40). -/
abbrev State.backgroundOk (s : State) : Prop := s.bgValid = false → s.bg = 0#4

/-- The registers at the values of 10_state.md R40. -/
abbrev State.registersAtReset (s : State) : Prop :=
  s.statusWord = 0#32 ∧ s.ie = false ∧ s.err = 0#4 ∧ s.errInfo = 0#32 ∧ s.bg = 0#4 ∧ s.idx = 0#4 ∧
    s.gridW = 320#16 ∧ s.gridH = 200#16

/-- While the reset line is asserted, every register stays at its reset value (70_reset_and_hazards.md R170). -/
abbrev State.resetLineOk (s : State) : Prop := s.rst = true → s.registersAtReset

/-- What every state of a run satisfies. -/
structure State.Inv (s : State) : Prop where
  flags : s.flagsOk
  error : s.errorOk
  memories : s.memoriesOk
  colorBytes : s.colorBytesOk
  background : s.backgroundOk
  resetLine : s.resetLineOk
  palette : s.pal.Legal

/-- Any number of steps. -/
inductive Steps (s : State) : State → Prop where
  | refl : Steps s s
  | tail {t u : State} : Steps s t → step t = .next u → Steps s u

/-- A state that a reset has just left, with the reset line released (70_reset_and_hazards.md R170, R171), the one
after power-on among them (R172), whatever inputs are still to come. -/
def State.afterReset (s : State) : Prop :=
  s.rst = false ∧ ((∃ p : State, s = p.performReset) ∨ s = { State.reset with agenda := s.agenda })

/-- Whether an input is a bus transaction (00_scope.md R8): a read or a write. -/
def HostEvent.isTransaction : HostEvent → Bool
  | .read _ _ => true
  | .write _ _ _ => true
  | .rstLine _ => false

/-- Whether an input offers a command (43_control_commands.md R142). -/
def HostEvent.isOffer : HostEvent → Bool
  | .read _ _ => false
  | .write addr n _ => addr == 0x13000#17 && n == 4
  | .rstLine _ => false

/-- Whether an input asks for a reset (70_reset_and_hazards.md R170). -/
def HostEvent.isReset : HostEvent → Bool
  | .read _ _ => false
  | .write addr n v => addr == 0x13008#17 && n == 4 && v.getLsbD 31
  | .rstLine asserted => asserted

/-- The host's read of `STATUS`. -/
def statusRead : HostEvent := .read 0x13004#17 4

/-- A run of the block (70_reset_and_hazards.md R180): from a reset at `s`, over the host transactions `es`, among
them every offer of the run, to the `STATUS` read after them, which returns the word `w` with BUSY = 0 and leaves
the state `t`. -/
structure RunEnds (s : State) (es : List HostEvent) (t : State) (w : Word) : Prop where
  reset : s.afterReset
  transactions : ∀ e ∈ es, e.isTransaction = true
  read : ∃ u : State, s.agenda = es ++ statusRead :: t.agenda ∧ Steps s u ∧ u.agenda = statusRead :: t.agenda ∧
    step u = .next t ∧ t.replies = u.replies ++ [.readOk w]
  idle : w.getLsbD 0 = false

/-- The run ended well: that read has FAULT = 0 and OVR = 0 (70_reset_and_hazards.md R180). -/
def RunEndedWell (s : State) (es : List HostEvent) (t : State) (w : Word) : Prop :=
  RunEnds s es t w ∧ w.getLsbD 2 = false ∧ w.getLsbD 3 = false

/-- The run ended badly: that read has FAULT = 1 (70_reset_and_hazards.md R180). -/
def RunEndedBadly (s : State) (es : List HostEvent) (t : State) (w : Word) : Prop :=
  RunEnds s es t w ∧ w.getLsbD 2 = true

/-- Two states whose results are the same (20_memory.md R58 item 3): `BMP`, `SCR`, `COL`, `BG` with its validity,
and `IDX`. -/
structure SameResults (s t : State) : Prop where
  bmp : ∀ o, t.bmpByte o = s.bmpByte o
  scr : ∀ c, t.scrByte c = s.scrByte c
  col : ∀ c, t.colByte c = s.colByte c
  bg : t.bg = s.bg
  bgValid : t.bgValid = s.bgValid
  idx : t.idx = s.idx

/-- Every byte of `PIX` that a list of addresses names is a colour index (10_state.md R22). -/
abbrev State.validPixels (s : State) (addrs : List Nat) : Prop := ∀ a ∈ addrs, (s.pixByte a).toNat ≤ 15

/-- The code stored for sample `i` of cell `c` (41_cell_quantizer.md R111). -/
def State.storedCode (s : State) (c i : Nat) : Nat :=
  (s.bmpByte (bmpOffset c (i / 4))).toNat / 2 ^ (6 - 2 * (i % 4)) % 4

/-- The colour a display shows for sample `i` of cell `c` (41_cell_quantizer.md R111). -/
def State.shownColor (s : State) (c i : Nat) : Color :=
  if s.storedCode c i = 0 then s.bg
  else if s.storedCode c i = 1 then (s.scrByte c).extractLsb' 4 4
  else if s.storedCode c i = 2 then (s.scrByte c).extractLsb' 0 4
  else (s.colByte c).extractLsb' 0 4

/-- The colours of a list of addresses, as `PIX` holds them. -/
def State.pixColors (s : State) (addrs : List Nat) : List Color := addrs.map fun a => (s.pixByte a).setWidth 4

/-- `HIST[k]` (42_bitmap_packer.md R120): how many of the 64000 pixels hold colour `k`. -/
def State.tally (s : State) (k : Color) : Nat :=
  (List.range Config.pixelCount).countP fun a => s.pixByte a == k.setWidth 8

/-- `ExtractCell(c)` (42_bitmap_packer.md R122) where the cell's samples are valid. -/
def State.samples (s : State) (c : Nat) : List Color := s.pixColors (sampleAddrs c)

/-- The cell's three owned byte ranges hold the image `q` (42_bitmap_packer.md R124). -/
def State.holdsImage (s : State) (c : Nat) (q : CellImage) : Prop :=
  (∀ r < 8, s.bmpByte (bmpOffset c r) = q.bm.getD r 0#8) ∧ s.scrByte c = q.scr ∧ s.colByte c = q.col

end Sys2Proof.Machine
end

