-- ==== Sys2Proof/Certificates/Slice0/Obligations.lean ====
section
/-! DEFINITION. The statements for the provers. Each docstring names the rules of spec/ it formalises; a statement
that rests on a choice of the model says so and names the log entry. -/

open Sys2Proof Sys2Proof.Machine

/-! ### Encoding (30_encoding.md) -/

/-- R73, R75: decoding the word of a legal command gives the command back, for every operand value. -/
def Obligations.DecodeInvertsEncode : Prop :=
  ∀ i : Instr, i.wellFormed = true → decodeWord (encode i) = .ok i

/-- R73, R75: a word that decodes is the word of exactly the command it decodes to, and that command is legal. -/
def Obligations.DecodedWordIsItsOwnEncoding : Prop :=
  ∀ (w : Word) (i : Instr), decodeWord w = .ok i → i.wellFormed = true ∧ encode i = w

/-- R71, R72: the decoder selects a row exactly where the row's mask and match select it, with every operand the
unsigned value of its field; `op` 6..15 selects none. -/
def Obligations.DecodeFollowsMaskAndMatch : Prop :=
  ∀ w : Word,
    (decodeWord w = .ok .nop ↔ w &&& 0xFFFFFFFF#32 = 0x00000000#32) ∧
    (∀ r g b : Byte, decodeWord w = .ok (.matchRgb r g b) ↔
      w &&& 0xFF000000#32 = 0x10000000#32 ∧
        r = w.extractLsb' 16 8 ∧ g = w.extractLsb' 8 8 ∧ b = w.extractLsb' 0 8) ∧
    (∀ k : Color, decodeWord w = .ok (.setbg k) ↔
      w &&& 0xFFFFFFF0#32 = 0x20000000#32 ∧ k = w.extractLsb' 0 4) ∧
    (decodeWord w = .ok .bgsel ↔ w &&& 0xFFFFFFFF#32 = 0x30000000#32) ∧
    (∀ c : BitVec 10, decodeWord w = .ok (.qcell c) ↔
      w &&& 0xFFFFFC00#32 = 0x40000000#32 ∧ c = w.extractLsb' 0 10 ∧ c.toNat < 1000) ∧
    (decodeWord w = .ok .convert ↔ w &&& 0xFFFFFFFF#32 = 0x50000000#32) ∧
    (6 ≤ (w.extractLsb' 28 4).toNat → ∃ why, decodeWord w = .error why)

/-- R74: the illegal words are those the rule lists and no others. -/
def Obligations.IllegalWordsAreThoseListed : Prop :=
  ∀ w : Word, (∃ why, decodeWord w = .error why) ↔
    6 ≤ (w.extractLsb' 28 4).toNat ∨ w.extractLsb' 24 4 ≠ 0#4 ∨
    ((w.extractLsb' 28 4 = 0#4 ∨ w.extractLsb' 28 4 = 3#4 ∨ w.extractLsb' 28 4 = 5#4) ∧ w.extractLsb' 0 24 ≠ 0#24) ∨
    (w.extractLsb' 28 4 = 2#4 ∧ w.extractLsb' 4 20 ≠ 0#20) ∨
    (w.extractLsb' 28 4 = 4#4 ∧ (w.extractLsb' 10 14 ≠ 0#14 ∨ 1000 ≤ (w.extractLsb' 0 10).toNat))

/-- R75: words written out from the rule's table, one of each command, and two illegal ones of R74. -/
def Obligations.DecodeOfWrittenOutWords : Prop :=
  decodeWord 0x00000000#32 = .ok .nop ∧
  decodeWord 0x10C86432#32 = .ok (.matchRgb 0xC8#8 0x64#8 0x32#8) ∧
  decodeWord 0x2000000B#32 = .ok (.setbg 11#4) ∧
  decodeWord 0x30000000#32 = .ok .bgsel ∧
  decodeWord 0x40000029#32 = .ok (.qcell 41#10) ∧
  decodeWord 0x50000000#32 = .ok .convert ∧
  decodeWord 0x11000000#32 = .error .reservedZ ∧
  decodeWord 0x400003E8#32 = .error .cellRange

/-! ### The step (43_control_commands.md R143, 00_scope.md R8) -/

/-- R143: where the pending command is due, the step runs the decoded command. When it is due rests on log entry 2:
its time is over, or no input is left. -/
def Obligations.StepRunsTheDecodedCommand : Prop :=
  ∀ (s : State) (i : Instr), s.busy = true → (s.busyLeft = 0 ∨ s.agenda = []) → decodeWord s.pend = .ok i →
    step s = exec i s

/-- R153: a pending word that is no command ends in the illegal-command fault, which records the word; R143 takes it
from `PEND`. When it is due rests on log entry 2; that `PEND` keeps it afterwards is log entry 20. -/
def Obligations.PendingIllegalWordFaults : Prop :=
  ∀ (s : State) (why : Illegal), s.busy = true → (s.busyLeft = 0 ∨ s.agenda = []) →
    decodeWord s.pend = .error why →
    step s = .next { s with err := 3#4, errInfo := s.pend, busy := false, fault := true }

/-- R58: otherwise the next input takes effect, one at a time and in order. That inputs stand in a list, and the
count that the time of a pending command takes, are the model's (log entries 1 and 2). -/
def Obligations.InputsTakeEffectInOrder : Prop :=
  ∀ (s : State) (e : HostEvent) (rest : List HostEvent), s.agenda = e :: rest →
    (s.busy = false ∨ s.busyLeft ≠ 0) →
    step s = .next (({ s with agenda := rest, busyLeft := s.busyLeft - 1 } : State).hostStep e)

/-- R162: an idle block does nothing. That the step then answers the same state is the model's (log entry 3). -/
def Obligations.IdleBlockStaysAsItIs : Prop :=
  ∀ s : State, s.busy = false → s.agenda = [] → step s = .next s

/-- The model's own reading, no rule's: no step ends in a fault or a refusal of the interface. That what the spec
calls a fault and a bus error are next states is log entry 16 (DEDUCED); that an idle block's step answers one, where
R162 gives it no enabled step, is log entry 3 (DESIGN CHOICE). -/
def Obligations.EveryStepAnswersANextState : Prop :=
  ∀ s : State, ∃ t, step s = .next t

/-- The word that `withFetchWord` places is the very next command (log entry 10, the model's). -/
def Obligations.PlacedWordRunsNext : Prop :=
  ∀ (s : State) (nbits w : Nat) (i : Instr), decodeTableWord nbits w = some i →
    step (s.withFetchWord nbits w) = exec i (s.withFetchWord nbits w)

/-- R178: every pending command completes, or is abandoned by a reset, in a bounded number of steps. The bound is
the model's form of T_BUSY (log entry 2). -/
def Obligations.PendingCommandEnds : Prop :=
  ∀ s : State, s.busy = true →
    ∃ k t, k ≤ s.busyLeft + 1 ∧ Sys2Proof.core.run k s = .next t ∧ t.busy = false

/-! ### NOP, SETBG, MATCH (43_control_commands.md, 40_palette_matcher.md) -/

/-- R140, R143: NOP completes and writes nothing but BUSY and DONE (that `PEND` stays is log entry 20). -/
def Obligations.NopOnlyCompletes : Prop :=
  ∀ s : State, exec .nop s = .next { s with busy := false, done := true }

/-- R141, R143: SETBG completes with the given background, valid, and writes nothing else (that `PEND` stays is log
entry 20). -/
def Obligations.SetbgSetsTheBackground : Prop :=
  ∀ (s : State) (k : Color),
    exec (.setbg k) s = .next { s with bg := k, bgValid := true, busy := false, done := true }

/-- R91 (and R92): MATCH completes for every triple in every state; `IDX` is the least index whose palette entry is at
the least distance, and nothing else changes but BUSY and DONE (that `PEND` stays is log entry 20). -/
def Obligations.MatchFindsTheNearestColor : Prop :=
  ∀ (s : State) (r g b : Byte), ∃ k : Color,
    exec (.matchRgb r g b) s = .next { s with idx := k, busy := false, done := true } ∧
    (∀ j : Color, distance (s.pal.entry k) ⟨r, g, b⟩ ≤ distance (s.pal.entry j) ⟨r, g, b⟩) ∧
    (∀ j : Color, j < k → distance (s.pal.entry k) ⟨r, g, b⟩ < distance (s.pal.entry j) ⟨r, g, b⟩)

/-- R93 (ii): with a legal palette, matching an entry's own triple gives that entry's index. -/
def Obligations.PaletteEntryMatchesItself : Prop :=
  ∀ (s : State) (k : Color), s.pal.Legal →
    ∃ t, exec (.matchRgb (s.pal.entry k).r (s.pal.entry k).g (s.pal.entry k).b) s = .next t ∧ t.idx = k

/-- R90: distances are sums of three squares of integer differences; they fit 18 bits, are symmetric, and are 0
only between equal triples. -/
def Obligations.DistanceIsAnExactSquaredMetric : Prop :=
  ∀ p q : Rgb,
    (distance p q : Int) = ((p.r.toNat : Int) - q.r.toNat) ^ 2 + ((p.g.toNat : Int) - q.g.toNat) ^ 2 +
      ((p.b.toNat : Int) - q.b.toNat) ^ 2 ∧
    distance p q ≤ 195075 ∧ distance p q = distance q p ∧ (distance p q = 0 ↔ p = q)

/-! ### BGSEL (42_bitmap_packer.md) -/

/-- R120, R121: with the legal shape and every pixel a colour index, BGSEL completes; `BG` is the lowest of the most
frequent colours of all 64000 pixels, valid, and nothing else changes but BUSY and DONE (that `PEND` stays is log
entry 20). -/
def Obligations.BgselSelectsTheMode : Prop :=
  ∀ s : State, s.gridW = 320#16 → s.gridH = 200#16 → (∀ a < 64000, (s.pixByte a).toNat ≤ 15) →
    ∃ b : Color, exec .bgsel s = .next { s with bg := b, bgValid := true, busy := false, done := true } ∧
      ∀ k : Color,
        s.tally k ≤ s.tally b ∧ (k < b → s.tally k < s.tally b)

/-- R151, R152, R155: BGSEL and CONVERT fault on a wrong shape before they read a pixel, else on the lowest address
that holds an invalid byte, and then change nothing but what fault entry writes (that `PEND` stays is log entry 20).
-/
def Obligations.WholeGridCommandsFault : Prop :=
  ∀ (s : State) (i : Instr), i = .bgsel ∨ i = .convert →
    (¬(s.gridW = 320#16 ∧ s.gridH = 200#16) →
      exec i s = .next { s with err := 2#4, errInfo := s.gridH ++ s.gridW, busy := false, fault := true }) ∧
    (s.gridW = 320#16 → s.gridH = 200#16 → ∀ a < 64000, (∀ b < a, (s.pixByte b).toNat ≤ 15) →
      15 < (s.pixByte a).toNat →
      exec i s = .next
        { s with err := 1#4, errInfo := s.pixByte a ++ BitVec.ofNat 24 a, busy := false, fault := true })

/-! ### QCELL (41_cell_quantizer.md) -/

/-- R57: the address of a sample as the rule computes it, inside `PIX`, always in an even column, and different for
different cells or samples (R122). -/
def Obligations.SampleAddressesAreTheRules : Prop :=
  ∀ c i : Nat, c < 1000 → i < 32 →
    sampleAddr c i = (c / 40 * 8 + i / 4) * 320 + (c % 40 * 8 + i % 4 * 2) ∧
    sampleAddr c i < 64000 ∧ sampleAddr c i % 2 = 0 ∧
    ∀ d j : Nat, d < 1000 → j < 32 → sampleAddr c i = sampleAddr d j → c = d ∧ i = j

/-- R109: with the legal shape, a valid background and 32 valid samples, QCELL completes: the cell's ten bytes hold
the image of its samples, every other byte of the buffers reads as before, and nothing else changes but BUSY and DONE
(that `PEND` stays is log entry 20). -/
def Obligations.QcellWritesItsCell : Prop :=
  ∀ (s : State) (c : BitVec 10), c.toNat < 1000 → s.gridW = 320#16 → s.gridH = 200#16 → s.bgValid = true →
    (∀ i < 32, (s.pixByte (sampleAddr c.toNat i)).toNat ≤ 15) →
    ∃ t, exec (.qcell c) s = .next t ∧
      t = { s with bmp := t.bmp, scr := t.scr, col := t.col, busy := false, done := true } ∧
      t.holdsImage c.toNat
        (quantCell s.pal ((List.range 32).map fun i => (s.pixByte (sampleAddr c.toNat i)).setWidth 4) s.bg) ∧
      (∀ o, o < c.toNat * 8 ∨ c.toNat * 8 + 8 ≤ o → t.bmpByte o = s.bmpByte o) ∧
      (∀ d, d ≠ c.toNat → t.scrByte d = s.scrByte d ∧ t.colByte d = s.colByte d)

/-- R109, R155: QCELL's faults in their order: shape, background, then the first invalid sample. R154 records the
command word, which R143 takes from `PEND`; that exec does so in every state, one whose `PEND` is another word
included, is the model's (log entry 12), and so is that `PEND` stays (log entry 20). The entry for a cell index above
999, which no decoded word has, is the model's too (log entries 11 and 12). -/
def Obligations.QcellFaultsInOrder : Prop :=
  ∀ (s : State) (c : BitVec 10),
    (1000 ≤ c.toNat →
      exec (.qcell c) s = .next { s with err := 3#4, errInfo := s.pend, busy := false, fault := true }) ∧
    (c.toNat < 1000 → ¬(s.gridW = 320#16 ∧ s.gridH = 200#16) →
      exec (.qcell c) s =
        .next { s with err := 2#4, errInfo := s.gridH ++ s.gridW, busy := false, fault := true }) ∧
    (c.toNat < 1000 → s.gridW = 320#16 → s.gridH = 200#16 → s.bgValid = false →
      exec (.qcell c) s = .next { s with err := 4#4, errInfo := s.pend, busy := false, fault := true }) ∧
    (c.toNat < 1000 → s.gridW = 320#16 → s.gridH = 200#16 → s.bgValid = true →
      ∀ i < 32, (∀ j < i, (s.pixByte (sampleAddr c.toNat j)).toNat ≤ 15) →
        15 < (s.pixByte (sampleAddr c.toNat i)).toNat →
        exec (.qcell c) s = .next
          { s with
            err := 1#4
            errInfo := s.pixByte (sampleAddr c.toNat i) ++ BitVec.ofNat 24 (sampleAddr c.toNat i)
            busy := false
            fault := true })

/-- R122: the odd-column pixels have no influence on QCELL: with another `PIX` that agrees in the even columns, it
does the same. -/
def Obligations.OddColumnsDoNotReachACell : Prop :=
  ∀ (s t : State) (m : Memory) (c : BitVec 10),
    (∀ a, a % 2 = 0 → ({ s with pix := m } : State).pixByte a = s.pixByte a) →
    exec (.qcell c) s = .next t → exec (.qcell c) { s with pix := m } = .next { t with pix := m }

/-! ### `QuantCell` (41_cell_quantizer.md) -/

/-- R102, R103: slot 0 is the background; the used slots hold candidates, each ranking strictly before the next and
before every candidate left out, by count and then by first occurrence; a candidate is left out only when three
slots are used; an unused slot holds the background. -/
def Obligations.SlotsHoldTheTopRankedColors : Prop :=
  ∀ (pal : Palette) (S : List Color) (bg : Color),
    let q := quantCell pal S bg
    let before := fun k1 k2 : Color =>
      S.count k2 < S.count k1 ∨ (S.count k1 = S.count k2 ∧ S.idxOf k1 < S.idxOf k2)
    q.slot.length = 4 ∧ q.nsel ≤ 3 ∧ q.slot.getD 0 0#4 = bg ∧
    (∀ s, 1 ≤ s → s ≤ q.nsel → q.slot.getD s 0#4 ∈ S ∧ q.slot.getD s 0#4 ≠ bg) ∧
    (∀ s u, 1 ≤ s → s < u → u ≤ q.nsel → before (q.slot.getD s 0#4) (q.slot.getD u 0#4)) ∧
    (∀ k ∈ S, k ≠ bg → (∀ s, 1 ≤ s → s ≤ q.nsel → q.slot.getD s 0#4 ≠ k) →
      q.nsel = 3 ∧ ∀ s, 1 ≤ s → s ≤ 3 → before (q.slot.getD s 0#4) k) ∧
    (∀ s, q.nsel < s → s ≤ 3 → q.slot.getD s 0#4 = bg)

/-- R104: a sample whose colour a slot in use holds gets that slot's code. -/
def Obligations.RetainedColorsKeepTheirSlot : Prop :=
  ∀ (pal : Palette) (S : List Color) (bg : Color) (i s : Nat) (k : Color),
    S[i]? = some k → s ≤ (quantCell pal S bg).nsel → (quantCell pal S bg).slot[s]? = some k →
    (quantCell pal S bg).code[i]? = some (BitVec.ofNat 2 s)

/-- R104, R105: a sample of an excluded colour gets the lowest of the slots whose palette entry is nearest to its
own. -/
def Obligations.ExcludedColorsGoToTheNearestSlot : Prop :=
  ∀ (pal : Palette) (S : List Color) (bg : Color) (i : Nat) (k : Color),
    S[i]? = some k → (∀ s ≤ (quantCell pal S bg).nsel, (quantCell pal S bg).slot.getD s 0#4 ≠ k) →
    ∃ e : Code, (quantCell pal S bg).code[i]? = some e ∧ e.toNat ≤ (quantCell pal S bg).nsel ∧
      ∀ s ≤ (quantCell pal S bg).nsel,
        distance (pal.entry k) (pal.entry ((quantCell pal S bg).slot.getD e.toNat 0#4)) ≤
          distance (pal.entry k) (pal.entry ((quantCell pal S bg).slot.getD s 0#4)) ∧
        (s < e.toNat →
          distance (pal.entry k) (pal.entry ((quantCell pal S bg).slot.getD e.toNat 0#4)) <
            distance (pal.entry k) (pal.entry ((quantCell pal S bg).slot.getD s 0#4)))

/-- R110 item 4: in a cell with at most three different colours besides the background, every sample's code names
its own colour. -/
def Obligations.CellsWithinTheBudgetAreLossless : Prop :=
  ∀ (pal : Palette) (S : List Color) (bg : Color),
    (S.eraseDups.filter fun k => k != bg).length ≤ 3 →
    ∀ (i : Nat) (k : Color), S[i]? = some k →
      ∃ e : Code, (quantCell pal S bg).code[i]? = some e ∧ (quantCell pal S bg).slot[e.toNat]? = some k

/-- R106, R107: the metadata bytes are the slots' colours and each bitmap byte is four codes, the first in the top
bits; there are as many codes as samples, and eight bitmap bytes. -/
def Obligations.ImageBytesPackSlotsAndCodes : Prop :=
  ∀ (pal : Palette) (S : List Color) (bg : Color),
    let q := quantCell pal S bg
    q.scr.toNat = (q.slot.getD 1 0#4).toNat * 16 + (q.slot.getD 2 0#4).toNat ∧
    q.col.toNat = (q.slot.getD 3 0#4).toNat ∧
    q.code.length = S.length ∧ q.bm.length = 8 ∧
    ∀ r < 8, (q.bm.getD r 0#8).toNat =
      (q.code.getD (4 * r) 0#2).toNat * 64 + (q.code.getD (4 * r + 1) 0#2).toNat * 16 +
        (q.code.getD (4 * r + 2) 0#2).toNat * 4 + (q.code.getD (4 * r + 3) 0#2).toNat

/-- R110 item 5: a cell with no colour but the background uses no slot, has zero codes and bitmap bytes, and reports
the background in all three metadata nibbles. -/
def Obligations.BackgroundOnlyCell : Prop :=
  ∀ (pal : Palette) (bg : Color),
    let q := quantCell pal (List.replicate 32 bg) bg
    q.nsel = 0 ∧ q.code = List.replicate 32 0#2 ∧ q.bm = List.replicate 8 0#8 ∧
      q.scr.toNat = 17 * bg.toNat ∧ q.col.toNat = bg.toNat

/-- R111, R110 items 3 and 4: after QCELL of a cell within the colour budget, the outputs read back show every
sample's own colour. -/
def Obligations.QcellReadsBackLosslessly : Prop :=
  ∀ (s : State) (c : BitVec 10), c.toNat < 1000 → s.gridW = 320#16 → s.gridH = 200#16 → s.bgValid = true →
    (∀ i < 32, (s.pixByte (sampleAddr c.toNat i)).toNat ≤ 15) →
    ((s.samples c.toNat).eraseDups.filter fun k => k != s.bg).length ≤ 3 →
    ∃ t, exec (.qcell c) s = .next t ∧
      ∀ i < 32, (t.shownColor c.toNat i).setWidth 8 = s.pixByte (sampleAddr c.toNat i)

/-! ### CONVERT (42_bitmap_packer.md) -/

/-- R123, R124: with the legal shape and every pixel a colour index, CONVERT completes: `BG` is the lowest of the most
frequent colours, valid; every cell's bytes hold the image of its samples against that background; nothing else
changes but BUSY and DONE (that `PEND` stays is log entry 20). -/
def Obligations.ConvertWritesEveryCell : Prop :=
  ∀ s : State, s.gridW = 320#16 → s.gridH = 200#16 → (∀ a < 64000, (s.pixByte a).toNat ≤ 15) →
    ∃ t, exec .convert s = .next t ∧
      t = { s with
        bmp := t.bmp, scr := t.scr, col := t.col, bg := t.bg, bgValid := true, busy := false, done := true } ∧
      (∀ k : Color, s.tally k ≤ s.tally t.bg ∧ (k < t.bg → s.tally k < s.tally t.bg)) ∧
      (∀ c < 1000, t.holdsImage c
        (quantCell s.pal ((List.range 32).map fun i => (s.pixByte (sampleAddr c i)).setWidth 4) t.bg)) ∧
      (∀ o, 8000 ≤ o → t.bmpByte o = s.bmpByte o) ∧
      (∀ d, 1000 ≤ d → t.scrByte d = s.scrByte d ∧ t.colByte d = s.colByte d)

/-- R127 (i) and (iii): after a successful CONVERT, converting again, or quantizing any cell again, changes no byte
of the outputs and no background. -/
def Obligations.ConvertIsIdempotent : Prop :=
  ∀ s t : State, s.fault = false → exec .convert s = .next t → t.fault = false →
    (∃ u, exec .convert t = .next u ∧ u.fault = false ∧ u.bg = t.bg ∧
      ∀ o, u.bmpByte o = t.bmpByte o ∧ u.scrByte o = t.scrByte o ∧ u.colByte o = t.colByte o) ∧
    ∀ c : BitVec 10, c.toNat < 1000 → ∃ u, exec (.qcell c) t = .next u ∧ u.fault = false ∧ u.bg = t.bg ∧
      ∀ o, u.bmpByte o = t.bmpByte o ∧ u.scrByte o = t.scrByte o ∧ u.colByte o = t.colByte o

/-- R127 (ii): a grid of one colour `k` converts to the background `k`, a zero bitmap, screen bytes `17·k` and
colour bytes `k`. -/
def Obligations.OneColorGridConverts : Prop :=
  ∀ (s : State) (k : Color), s.gridW = 320#16 → s.gridH = 200#16 → (∀ a < 64000, s.pixByte a = k.setWidth 8) →
    ∃ t, exec .convert s = .next t ∧ t.bg = k ∧ (∀ o < 8000, t.bmpByte o = 0#8) ∧
      ∀ c < 1000, (t.scrByte c).toNat = 17 * k.toNat ∧ (t.colByte c).toNat = k.toNat

/-- R127 (iv): with another `PIX` that agrees in the even columns and gives the same background, a CONVERT that
succeeds on both gives the same outputs. -/
def Obligations.OddColumnsOnlyCountInTheTally : Prop :=
  ∀ (s t u : State) (m : Memory), s.fault = false →
    (∀ a, a % 2 = 0 → ({ s with pix := m } : State).pixByte a = s.pixByte a) →
    exec .convert s = .next t → t.fault = false →
    exec .convert { s with pix := m } = .next u → u.fault = false → u.bg = t.bg →
    u = { t with pix := m }

/-! ### Completion and faults (43_control_commands.md R143, 60_exceptions.md) -/

/-- R35: what a command leaves unchanged, whether it completes or faults. That `PEND` is among it is the model's
choice (log entry 20). The level of the reset line and the model's own five fields (log entries 1, 2, 7 and 9) are
among it too. -/
def Obligations.CommandsTouchOnlyTheirResults : Prop :=
  ∀ (i : Instr) (s t : State), exec i s = .next t →
    (t.pal = s.pal ∧ t.pix = s.pix ∧ t.gridW = s.gridW ∧ t.gridH = s.gridH ∧ t.ie = s.ie ∧ t.ovr = s.ovr ∧
      t.pend = s.pend ∧ t.rst = s.rst ∧ t.agenda = s.agenda ∧ t.replies = s.replies ∧ t.draws = s.draws ∧
      t.bufDraw = s.bufDraw ∧ t.busyLeft = s.busyLeft) ∧
    ((∀ r g b, i ≠ .matchRgb r g b) → t.idx = s.idx) ∧
    ((∀ k, i ≠ .setbg k) → i ≠ .bgsel → i ≠ .convert → t.bg = s.bg ∧ t.bgValid = s.bgValid) ∧
    ((∀ c, i ≠ .qcell c) → i ≠ .convert → t.bmp = s.bmp ∧ t.scr = s.scr ∧ t.col = s.col)

/-- R143, R157: a command that starts with DONE = 0 and FAULT = 0 ends with BUSY = 0 and exactly one of the two set;
where it is FAULT, only what fault entry writes has changed, and the code is one of 1 to 4; where it is DONE, the
fault registers are as before. That `PEND` stays over a fault is log entry 20. -/
def Obligations.CommandsAreAllOrNothing : Prop :=
  ∀ (i : Instr) (s t : State), s.done = false → s.fault = false → exec i s = .next t →
    t.busy = false ∧ (t.done = !t.fault) ∧
    (t.fault = true →
      t = { s with err := t.err, errInfo := t.errInfo, busy := false, fault := true } ∧
        1 ≤ t.err.toNat ∧ t.err.toNat ≤ 4) ∧
    (t.fault = false → t.err = s.err ∧ t.errInfo = s.errInfo)

/-- R156: fault entry writes `ERR`, `ERRINFO`, BUSY and FAULT and nothing else; `irq` then rises if `IE` is 1. The
codes are those of R31. -/
def Obligations.FaultEntryWritesTheFaultRegisters : Prop :=
  ∀ (s : State) (t : Trap),
    s.faultEntry t = { s with err := t.code.bits, errInfo := t.info, busy := false, fault := true } ∧
    (s.faultEntry t).irq = s.ie ∧
    FaultCode.pixelRange.bits = 1#4 ∧ FaultCode.gridShape.bits = 2#4 ∧ FaultCode.illegalCmd.bits = 3#4 ∧
    FaultCode.bgUnset.bits = 4#4

/-- R158: while the block is in the fault state and neither the reset line is asserted nor a soft reset is written,
no step clears FAULT or changes what it recorded, and no command is accepted. -/
def Obligations.FaultStaysUntilReset : Prop :=
  ∀ s t : State, s.fault = true → s.busy = false →
    (∀ rest, s.agenda ≠ .rstLine true :: rest) →
    (∀ (v : Word) (rest : List HostEvent), v.getLsbD 31 = true → s.agenda ≠ .write 0x13008#17 4 v :: rest) →
    step s = .next t →
    t.fault = true ∧ t.busy = false ∧ t.err = s.err ∧ t.errInfo = s.errInfo

/-- R39: the interrupt line. -/
def Obligations.InterruptLineFollowsDoneAndFault : Prop :=
  ∀ s : State, s.irq = true ↔ s.ie = true ∧ (s.done = true ∨ s.fault = true)

/-! ### Reset (70_reset_and_hazards.md, 10_state.md R40) -/

/-- R170, R144: the soft reset and the assertion of `rst` both perform the reset, in any state. That another assertion
of an asserted line changes nothing, and that its release changes only the level, is the model's reading (log entry 9,
DEDUCED). -/
def Obligations.BothResetSourcesReset : Prop :=
  ∀ s : State,
    (∀ v : Word, s.rst = false → v.getLsbD 31 = true →
      s.hostStep (.write 0x13008#17 4 v) =
        { s.performReset with replies := s.replies ++ [.writeOk] }) ∧
    (s.rst = false → s.hostStep (.rstLine true) = { s.performReset with rst := true }) ∧
    (s.rst = true → s.hostStep (.rstLine true) = s) ∧
    s.hostStep (.rstLine false) = { s with rst := false }

/-- R40, R171: what a reset leaves: the registers' values, `PIX` and the palette as they were, and the output
buffers as they were if the block was idle. If it was busy their bytes are free values (log entry 6). -/
def Obligations.ResetLeavesTheResetValues : Prop :=
  ∀ s : State,
    (s.performReset.statusWord = 0#32 ∧ s.performReset.ie = false ∧ s.performReset.err = 0#4 ∧
      s.performReset.errInfo = 0#32 ∧ s.performReset.bg = 0#4 ∧ s.performReset.idx = 0#4 ∧
      s.performReset.gridW = 320#16 ∧ s.performReset.gridH = 200#16 ∧ s.performReset.irq = false) ∧
    s.performReset.pal = s.pal ∧ (∀ a, s.performReset.pixByte a = s.pixByte a) ∧
    (s.busy = false → ∀ o, s.performReset.bmpByte o = s.bmpByte o ∧ s.performReset.scrByte o = s.scrByte o ∧
      s.performReset.colByte o = s.colByte o) ∧
    (s.busy = true → ∀ o, s.performReset.bmpByte o = Config.storedByte s.draws (0x10000 + o) ∧
      s.performReset.scrByte o = Config.storedByte s.draws (0x12000 + o) ∧
      s.performReset.colByte o = Config.storedByte s.draws (0x12400 + o))

/-! ### The host's bus (20_memory.md) -/

/-- R160 with the conditions of R52 and R170: a rejected transaction gets `BUSERR` (a read with data 0) and changes
no state of the block. -/
def Obligations.BusErrorsChangeNothing : Prop :=
  ∀ (s : State) (addr : HostAddr) (n : Nat) (v : Word),
    ((s.rst = true ∨ (n ≠ 1 ∧ n ≠ 4) ∨
      (0x0FA00 ≤ addr.toNat ∧ addr.toNat ≤ 0x0FFFF) ∨ (0x11F40 ≤ addr.toNat ∧ addr.toNat ≤ 0x11FFF) ∨
      (0x123E8 ≤ addr.toNat ∧ addr.toNat ≤ 0x123FF) ∨ (0x127E8 ≤ addr.toNat ∧ addr.toNat ≤ 0x12FFF) ∨
      (0x13028 ≤ addr.toNat ∧ addr.toNat ≤ 0x1303F) ∨ 0x13080 ≤ addr.toNat ∨
      (n = 4 ∧ addr.toNat < 0x13000) ∨ (n = 1 ∧ 0x13000 ≤ addr.toNat) ∨ (n = 4 ∧ addr.toNat % 4 ≠ 0)) →
      s.hostStep (.read addr n) = { s with replies := s.replies ++ [.readBusErr 0#32] } ∧
      s.hostStep (.write addr n v) = { s with replies := s.replies ++ [.writeBusErr] }) ∧
    ((0x10000 ≤ addr.toNat ∧ addr.toNat ≤ 0x127E7) ∨ (0x1300C ≤ addr.toNat ∧ addr.toNat ≤ 0x1301B) ∨
      0x13024 ≤ addr.toNat →
      s.hostStep (.write addr n v) = { s with replies := s.replies ++ [.writeBusErr] })

/-- R54: a one-byte read of a memory, while the block is idle, returns the byte and changes nothing; `PIX` reads so
while it is busy too. That the byte stands zero-extended in a 32-bit response is the model's (log entry 13). -/
def Obligations.MemoryReadsReturnTheBytes : Prop :=
  ∀ s : State, s.rst = false →
    (∀ a < 64000, s.hostStep (.read (BitVec.ofNat 17 a) 1) =
      { s with replies := s.replies ++ [.readOk ((s.pixByte a).setWidth 32)] }) ∧
    (s.busy = false →
      (∀ o < 8000, s.hostStep (.read (BitVec.ofNat 17 (0x10000 + o)) 1) =
        { s with replies := s.replies ++ [.readOk ((s.bmpByte o).setWidth 32)] }) ∧
      (∀ c < 1000, s.hostStep (.read (BitVec.ofNat 17 (0x12000 + c)) 1) =
        { s with replies := s.replies ++ [.readOk ((s.scrByte c).setWidth 32)] }) ∧
      (∀ c < 1000, s.hostStep (.read (BitVec.ofNat 17 (0x12400 + c)) 1) =
        { s with replies := s.replies ++ [.readOk ((s.colByte c).setWidth 32)] }))

/-- R54, R28 to R34, R78: an aligned word read of a register, or of a palette entry, returns its word and changes
nothing. `BG` and `IDX` read so while the block is idle. -/
def Obligations.RegisterReadsReturnTheWords : Prop :=
  ∀ s : State, s.rst = false →
    s.hostStep (.read 0x13000#17 4) = { s with replies := s.replies ++ [.readOk 0#32] } ∧
    s.hostStep (.read 0x13004#17 4) = { s with replies := s.replies ++ [.readOk s.statusWord] } ∧
    s.hostStep (.read 0x13008#17 4) =
      { s with replies := s.replies ++ [.readOk (if s.ie then 1#32 else 0#32)] } ∧
    s.hostStep (.read 0x1300C#17 4) = { s with replies := s.replies ++ [.readOk (s.err.setWidth 32)] } ∧
    s.hostStep (.read 0x13010#17 4) = { s with replies := s.replies ++ [.readOk s.errInfo] } ∧
    (s.busy = false →
      s.hostStep (.read 0x13014#17 4) = { s with replies := s.replies ++ [.readOk (s.bg.setWidth 32)] } ∧
      s.hostStep (.read 0x13018#17 4) = { s with replies := s.replies ++ [.readOk (s.idx.setWidth 32)] }) ∧
    s.hostStep (.read 0x1301C#17 4) = { s with replies := s.replies ++ [.readOk (s.gridW.setWidth 32)] } ∧
    s.hostStep (.read 0x13020#17 4) = { s with replies := s.replies ++ [.readOk (s.gridH.setWidth 32)] } ∧
    s.hostStep (.read 0x13024#17 4) = { s with replies := s.replies ++ [.readOk 0x51495859#32] } ∧
    (∀ i : Color, s.hostStep (.read (BitVec.ofNat 17 (0x13040 + 4 * i.toNat)) 4) =
      { s with
        replies := s.replies ++
          [.readOk (0#8 ++ (s.pal.entry i).r ++ (s.pal.entry i).g ++ (s.pal.entry i).b)] })

/-- R54: while the block is busy, a read of an output buffer, of `BG` or of `IDX` answers OK with a free value of the
location's width, drawn anew for each read, and changes no state of the block. The form of the draw is the model's
(log entry 7), and so is the zero extension of a buffer's byte to a 32-bit response (log entry 13). -/
def Obligations.BusyResultReadsAreFree : Prop :=
  ∀ s : State, s.rst = false → s.busy = true →
    (∀ a, (0x10000 ≤ a ∧ a < 0x11F40) ∨ (0x12000 ≤ a ∧ a < 0x123E8) ∨ (0x12400 ≤ a ∧ a < 0x127E8) →
      s.hostStep (.read (BitVec.ofNat 17 a) 1) =
        { s with
          replies := s.replies ++ [.readOk ((Config.anyByte s.draws).setWidth 32)], draws := s.draws + 1 }) ∧
    (∀ a, a = 0x13014 ∨ a = 0x13018 →
      s.hostStep (.read (BitVec.ofNat 17 a) 4) =
        { s with
          replies := s.replies ++ [.readOk ((Config.anyColor s.draws).setWidth 32)], draws := s.draws + 1 })

/-- R54: no read, of any size at any address in any state, changes anything but the list of responses and the model's
count of draws (log entries 1 and 7); while the block is idle it draws nothing, and the same read at once again gives
the same response. -/
def Obligations.IdleReadsAreIdempotent : Prop :=
  ∀ (s : State) (addr : HostAddr) (n : Nat),
    (∃ (r : Reply) (d : Nat),
      s.hostStep (.read addr n) = { s with replies := s.replies ++ [r], draws := d }) ∧
    (s.busy = false →
      ∃ r : Reply, s.hostStep (.read addr n) = { s with replies := s.replies ++ [r] } ∧
        (s.hostStep (.read addr n)).hostStep (.read addr n) = { s with replies := s.replies ++ [r, r] })

/-- R55: an idle block stores the low byte of a one-byte write to `PIX`, and every other byte of `PIX` reads as
before; nothing else changes. -/
def Obligations.PixelWritesAreStored : Prop :=
  ∀ (s : State) (a : Nat) (v : Word), s.rst = false → s.busy = false → a < 64000 →
    ∃ t, s.hostStep (.write (BitVec.ofNat 17 a) 1 v) = t ∧
      t = { s with pix := t.pix, replies := s.replies ++ [.writeOk] } ∧
      t.pixByte a = v.setWidth 8 ∧ ∀ b, b ≠ a → t.pixByte b = s.pixByte b

/-- R55, R175: while a command is pending, a write to `PIX`, `CMD`, `GRIDW` or `GRIDH` is dropped: it answers OK and
only OVR changes. -/
def Obligations.WritesWhileBusyAreDropped : Prop :=
  ∀ (s : State) (v : Word), s.rst = false → s.busy = true → s.fault = false →
    (∀ a < 64000, s.hostStep (.write (BitVec.ofNat 17 a) 1 v) =
      { s with ovr := true, replies := s.replies ++ [.writeOk] }) ∧
    (∀ a, a = 0x13000 ∨ a = 0x1301C ∨ a = 0x13020 → s.hostStep (.write (BitVec.ofNat 17 a) 4 v) =
      { s with ovr := true, replies := s.replies ++ [.writeOk] })

/-- R29, R30, R33: the writes of `STATUS` (ones clear DONE and OVR, busy or not), of `CTRL` without a reset, and, in
an idle block, of `GRIDW` and `GRIDH`. -/
def Obligations.RegisterWritesDoWhatTheRulesSay : Prop :=
  ∀ (s : State) (v : Word), s.rst = false →
    s.hostStep (.write 0x13004#17 4 v) =
      { s with
        done := if v.getLsbD 1 then false else s.done
        ovr := if v.getLsbD 3 then false else s.ovr
        replies := s.replies ++ [.writeOk] } ∧
    (v.getLsbD 31 = false →
      s.hostStep (.write 0x13008#17 4 v) =
        { s with ie := v.getLsbD 0, replies := s.replies ++ [.writeOk] }) ∧
    (s.busy = false →
      s.hostStep (.write 0x1301C#17 4 v) =
        { s with gridW := v.extractLsb' 0 16, replies := s.replies ++ [.writeOk] } ∧
      s.hostStep (.write 0x13020#17 4 v) =
        { s with gridH := v.extractLsb' 0 16, replies := s.replies ++ [.writeOk] })

/-- R142: the offer of a command word: dropped without a trace in the fault state, dropped with OVR while busy,
otherwise accepted without decoding. The response is OK in all three cases. Of the model's own count of the time
left and of draws (log entries 2 and 7) it says nothing. -/
def Obligations.CommandOffersFollowTheRule : Prop :=
  ∀ (s : State) (w : Word), s.rst = false →
    (s.fault = true →
      s.hostStep (.write 0x13000#17 4 w) = { s with replies := s.replies ++ [.writeOk] }) ∧
    (s.fault = false → s.busy = true →
      s.hostStep (.write 0x13000#17 4 w) = { s with ovr := true, replies := s.replies ++ [.writeOk] }) ∧
    (s.fault = false → s.busy = false →
      ∃ left d, s.hostStep (.write 0x13000#17 4 w) =
        { s with
          pend := w, done := false, busy := true, busyLeft := left, draws := d
          replies := s.replies ++ [.writeOk] })

/-- R29: the places of the flags in `STATUS`; the reserved bits read 0. -/
def Obligations.StatusWordHasTheFlags : Prop :=
  ∀ s : State, s.statusWord.getLsbD 0 = s.busy ∧ s.statusWord.getLsbD 1 = s.done ∧
    s.statusWord.getLsbD 2 = s.fault ∧ s.statusWord.getLsbD 3 = s.ovr ∧ s.statusWord.getLsbD 4 = s.bgValid ∧
    ∀ i, 5 ≤ i → s.statusWord.getLsbD i = false

/-- R58 item 2: as long as a command stays pending, no step changes anything it reads. -/
def Obligations.PendingCommandSeesAStableState : Prop :=
  ∀ s t : State, s.busy = true → step s = .next t → t.busy = true →
    t.pend = s.pend ∧ t.pal = s.pal ∧ t.pix = s.pix ∧ t.gridW = s.gridW ∧ t.gridH = s.gridH ∧ t.bg = s.bg ∧
      t.bgValid = s.bgValid ∧ t.bmp = s.bmp ∧ t.scr = s.scr ∧ t.col = s.col ∧ t.idx = s.idx

/-! ### What every step keeps (10_state.md) -/

/-- R21: no step changes the palette. -/
def Obligations.PaletteNeverChanges : Prop :=
  ∀ s t : State, step s = .next t → t.pal = s.pal

/-- The invariant of Safety.lean (flags R29, error registers R31 and R32, memory sizes R22 to R25, background R26 and
R40, reset line R170, palette R6) holds after reset. The canonical form of the memories is the model's (log entry 5);
that the palette of the reset state is a legal one is log entry 4; that the reset line is then released is log entry
9. -/
def Obligations.InvariantHoldsAtReset : Prop := State.reset.Inv

/-- The invariant of Safety.lean is kept by every step from every state that has it: flags R29, error registers R31
and R32, memory sizes R22 to R25, background R26 and R40, reset line R170, a legal palette R6, which nothing changes
R21. The canonical form of the memories is the model's (log entry 5), and so is the level of the reset line in the
state (log entry 9). -/
def Obligations.EveryStepKeepsTheInvariant : Prop :=
  ∀ s t : State, s.Inv → step s = .next t → t.Inv

/-! ### The end of a run (70_reset_and_hazards.md R180) -/

/-- R180: at the end of a run the word read is `STATUS`, the block is idle, and from there, as long as no command is
offered and no reset is asked for, it stays idle and every result stays as it is. That a run's transactions stand in a
list is the model's (log entry 1). -/
def Obligations.ResultsOfAnEndedRunAreStable : Prop :=
  ∀ (s : State) (es : List HostEvent) (t : State) (w : Word), RunEnds s es t w →
    w = t.statusWord ∧ t.busy = false ∧
    ∀ u : State, (∀ e ∈ t.agenda, e.isOffer = false ∧ e.isReset = false) → Steps t u →
      u.busy = false ∧ SameResults t u

/-- R180: a run that ended badly holds the results that stood before the completion of its faulting command, and the
fault registers still record that fault. That a run's transactions stand in a list is the model's (log entry 1). -/
def Obligations.BadlyEndedRunKeepsEarlierResults : Prop :=
  ∀ (s : State) (es : List HostEvent) (t : State) (w : Word), RunEndedBadly s es t w →
    ∃ u v : State, Steps s u ∧ u.busy = true ∧ u.fault = false ∧ step u = .next v ∧ v.fault = true ∧ Steps v t ∧
      SameResults u t ∧ t.fault = true ∧ t.err = v.err ∧ t.errInfo = v.errInfo

/-- R180: after a run that ended well no fault and no dropped write stands, and the host may read the results: the
block is idle and the reset line released. That a run's transactions stand in a list is the model's (log entry 1). -/
def Obligations.WellEndedRunHasNoFaultOrOverrun : Prop :=
  ∀ (s : State) (es : List HostEvent) (t : State) (w : Word), RunEndedWell s es t w →
    t.fault = false ∧ t.ovr = false ∧ t.busy = false ∧ t.rst = false
end

