-- ==== Sys2Proof/Laws/State.lean ====
section
/-! SUPPORT. One lemma per field per named update of State, each true by rfl, so that no later proof unfolds an
update. -/

namespace Sys2Proof.Machine

variable (s : State)

/-! ### writePix -/

@[simp] theorem State.writePix_pal (a : Nat) (v : Byte) : (s.writePix a v).pal = s.pal := rfl
@[simp] theorem State.writePix_pix (a : Nat) (v : Byte) : (s.writePix a v).pix = s.pix.put a v := rfl
@[simp] theorem State.writePix_bmp (a : Nat) (v : Byte) : (s.writePix a v).bmp = s.bmp := rfl
@[simp] theorem State.writePix_scr (a : Nat) (v : Byte) : (s.writePix a v).scr = s.scr := rfl
@[simp] theorem State.writePix_col (a : Nat) (v : Byte) : (s.writePix a v).col = s.col := rfl
@[simp] theorem State.writePix_bg (a : Nat) (v : Byte) : (s.writePix a v).bg = s.bg := rfl
@[simp] theorem State.writePix_idx (a : Nat) (v : Byte) : (s.writePix a v).idx = s.idx := rfl
@[simp] theorem State.writePix_pend (a : Nat) (v : Byte) : (s.writePix a v).pend = s.pend := rfl
@[simp] theorem State.writePix_busy (a : Nat) (v : Byte) : (s.writePix a v).busy = s.busy := rfl
@[simp] theorem State.writePix_done (a : Nat) (v : Byte) : (s.writePix a v).done = s.done := rfl
@[simp] theorem State.writePix_fault (a : Nat) (v : Byte) : (s.writePix a v).fault = s.fault := rfl
@[simp] theorem State.writePix_ovr (a : Nat) (v : Byte) : (s.writePix a v).ovr = s.ovr := rfl
@[simp] theorem State.writePix_bgValid (a : Nat) (v : Byte) : (s.writePix a v).bgValid = s.bgValid := rfl
@[simp] theorem State.writePix_ie (a : Nat) (v : Byte) : (s.writePix a v).ie = s.ie := rfl
@[simp] theorem State.writePix_err (a : Nat) (v : Byte) : (s.writePix a v).err = s.err := rfl
@[simp] theorem State.writePix_errInfo (a : Nat) (v : Byte) : (s.writePix a v).errInfo = s.errInfo := rfl
@[simp] theorem State.writePix_gridW (a : Nat) (v : Byte) : (s.writePix a v).gridW = s.gridW := rfl
@[simp] theorem State.writePix_gridH (a : Nat) (v : Byte) : (s.writePix a v).gridH = s.gridH := rfl
@[simp] theorem State.writePix_rst (a : Nat) (v : Byte) : (s.writePix a v).rst = s.rst := rfl
@[simp] theorem State.writePix_agenda (a : Nat) (v : Byte) : (s.writePix a v).agenda = s.agenda := rfl
@[simp] theorem State.writePix_replies (a : Nat) (v : Byte) : (s.writePix a v).replies = s.replies := rfl
@[simp] theorem State.writePix_busyLeft (a : Nat) (v : Byte) : (s.writePix a v).busyLeft = s.busyLeft := rfl
@[simp] theorem State.writePix_draws (a : Nat) (v : Byte) : (s.writePix a v).draws = s.draws := rfl
@[simp] theorem State.writePix_bufDraw (a : Nat) (v : Byte) : (s.writePix a v).bufDraw = s.bufDraw := rfl

/-! ### setIdx -/

@[simp] theorem State.setIdx_pal (k : Color) : (s.setIdx k).pal = s.pal := rfl
@[simp] theorem State.setIdx_pix (k : Color) : (s.setIdx k).pix = s.pix := rfl
@[simp] theorem State.setIdx_bmp (k : Color) : (s.setIdx k).bmp = s.bmp := rfl
@[simp] theorem State.setIdx_scr (k : Color) : (s.setIdx k).scr = s.scr := rfl
@[simp] theorem State.setIdx_col (k : Color) : (s.setIdx k).col = s.col := rfl
@[simp] theorem State.setIdx_bg (k : Color) : (s.setIdx k).bg = s.bg := rfl
@[simp] theorem State.setIdx_idx (k : Color) : (s.setIdx k).idx = k := rfl
@[simp] theorem State.setIdx_pend (k : Color) : (s.setIdx k).pend = s.pend := rfl
@[simp] theorem State.setIdx_busy (k : Color) : (s.setIdx k).busy = s.busy := rfl
@[simp] theorem State.setIdx_done (k : Color) : (s.setIdx k).done = s.done := rfl
@[simp] theorem State.setIdx_fault (k : Color) : (s.setIdx k).fault = s.fault := rfl
@[simp] theorem State.setIdx_ovr (k : Color) : (s.setIdx k).ovr = s.ovr := rfl
@[simp] theorem State.setIdx_bgValid (k : Color) : (s.setIdx k).bgValid = s.bgValid := rfl
@[simp] theorem State.setIdx_ie (k : Color) : (s.setIdx k).ie = s.ie := rfl
@[simp] theorem State.setIdx_err (k : Color) : (s.setIdx k).err = s.err := rfl
@[simp] theorem State.setIdx_errInfo (k : Color) : (s.setIdx k).errInfo = s.errInfo := rfl
@[simp] theorem State.setIdx_gridW (k : Color) : (s.setIdx k).gridW = s.gridW := rfl
@[simp] theorem State.setIdx_gridH (k : Color) : (s.setIdx k).gridH = s.gridH := rfl
@[simp] theorem State.setIdx_rst (k : Color) : (s.setIdx k).rst = s.rst := rfl
@[simp] theorem State.setIdx_agenda (k : Color) : (s.setIdx k).agenda = s.agenda := rfl
@[simp] theorem State.setIdx_replies (k : Color) : (s.setIdx k).replies = s.replies := rfl
@[simp] theorem State.setIdx_busyLeft (k : Color) : (s.setIdx k).busyLeft = s.busyLeft := rfl
@[simp] theorem State.setIdx_draws (k : Color) : (s.setIdx k).draws = s.draws := rfl
@[simp] theorem State.setIdx_bufDraw (k : Color) : (s.setIdx k).bufDraw = s.bufDraw := rfl

/-! ### setBackground -/

@[simp] theorem State.setBackground_pal (k : Color) : (s.setBackground k).pal = s.pal := rfl
@[simp] theorem State.setBackground_pix (k : Color) : (s.setBackground k).pix = s.pix := rfl
@[simp] theorem State.setBackground_bmp (k : Color) : (s.setBackground k).bmp = s.bmp := rfl
@[simp] theorem State.setBackground_scr (k : Color) : (s.setBackground k).scr = s.scr := rfl
@[simp] theorem State.setBackground_col (k : Color) : (s.setBackground k).col = s.col := rfl
@[simp] theorem State.setBackground_bg (k : Color) : (s.setBackground k).bg = k := rfl
@[simp] theorem State.setBackground_idx (k : Color) : (s.setBackground k).idx = s.idx := rfl
@[simp] theorem State.setBackground_pend (k : Color) : (s.setBackground k).pend = s.pend := rfl
@[simp] theorem State.setBackground_busy (k : Color) : (s.setBackground k).busy = s.busy := rfl
@[simp] theorem State.setBackground_done (k : Color) : (s.setBackground k).done = s.done := rfl
@[simp] theorem State.setBackground_fault (k : Color) : (s.setBackground k).fault = s.fault := rfl
@[simp] theorem State.setBackground_ovr (k : Color) : (s.setBackground k).ovr = s.ovr := rfl
@[simp] theorem State.setBackground_bgValid (k : Color) : (s.setBackground k).bgValid = true := rfl
@[simp] theorem State.setBackground_ie (k : Color) : (s.setBackground k).ie = s.ie := rfl
@[simp] theorem State.setBackground_err (k : Color) : (s.setBackground k).err = s.err := rfl
@[simp] theorem State.setBackground_errInfo (k : Color) : (s.setBackground k).errInfo = s.errInfo := rfl
@[simp] theorem State.setBackground_gridW (k : Color) : (s.setBackground k).gridW = s.gridW := rfl
@[simp] theorem State.setBackground_gridH (k : Color) : (s.setBackground k).gridH = s.gridH := rfl
@[simp] theorem State.setBackground_rst (k : Color) : (s.setBackground k).rst = s.rst := rfl
@[simp] theorem State.setBackground_agenda (k : Color) : (s.setBackground k).agenda = s.agenda := rfl
@[simp] theorem State.setBackground_replies (k : Color) : (s.setBackground k).replies = s.replies := rfl
@[simp] theorem State.setBackground_busyLeft (k : Color) : (s.setBackground k).busyLeft = s.busyLeft := rfl
@[simp] theorem State.setBackground_draws (k : Color) : (s.setBackground k).draws = s.draws := rfl
@[simp] theorem State.setBackground_bufDraw (k : Color) : (s.setBackground k).bufDraw = s.bufDraw := rfl

/-! ### faultEntry -/

@[simp] theorem State.faultEntry_pal (t : Trap) : (s.faultEntry t).pal = s.pal := rfl
@[simp] theorem State.faultEntry_pix (t : Trap) : (s.faultEntry t).pix = s.pix := rfl
@[simp] theorem State.faultEntry_bmp (t : Trap) : (s.faultEntry t).bmp = s.bmp := rfl
@[simp] theorem State.faultEntry_scr (t : Trap) : (s.faultEntry t).scr = s.scr := rfl
@[simp] theorem State.faultEntry_col (t : Trap) : (s.faultEntry t).col = s.col := rfl
@[simp] theorem State.faultEntry_bg (t : Trap) : (s.faultEntry t).bg = s.bg := rfl
@[simp] theorem State.faultEntry_idx (t : Trap) : (s.faultEntry t).idx = s.idx := rfl
@[simp] theorem State.faultEntry_pend (t : Trap) : (s.faultEntry t).pend = s.pend := rfl
@[simp] theorem State.faultEntry_busy (t : Trap) : (s.faultEntry t).busy = false := rfl
@[simp] theorem State.faultEntry_done (t : Trap) : (s.faultEntry t).done = s.done := rfl
@[simp] theorem State.faultEntry_fault (t : Trap) : (s.faultEntry t).fault = true := rfl
@[simp] theorem State.faultEntry_ovr (t : Trap) : (s.faultEntry t).ovr = s.ovr := rfl
@[simp] theorem State.faultEntry_bgValid (t : Trap) : (s.faultEntry t).bgValid = s.bgValid := rfl
@[simp] theorem State.faultEntry_ie (t : Trap) : (s.faultEntry t).ie = s.ie := rfl
@[simp] theorem State.faultEntry_err (t : Trap) : (s.faultEntry t).err = t.code.bits := rfl
@[simp] theorem State.faultEntry_errInfo (t : Trap) : (s.faultEntry t).errInfo = t.info := rfl
@[simp] theorem State.faultEntry_gridW (t : Trap) : (s.faultEntry t).gridW = s.gridW := rfl
@[simp] theorem State.faultEntry_gridH (t : Trap) : (s.faultEntry t).gridH = s.gridH := rfl
@[simp] theorem State.faultEntry_rst (t : Trap) : (s.faultEntry t).rst = s.rst := rfl
@[simp] theorem State.faultEntry_agenda (t : Trap) : (s.faultEntry t).agenda = s.agenda := rfl
@[simp] theorem State.faultEntry_replies (t : Trap) : (s.faultEntry t).replies = s.replies := rfl
@[simp] theorem State.faultEntry_busyLeft (t : Trap) : (s.faultEntry t).busyLeft = s.busyLeft := rfl
@[simp] theorem State.faultEntry_draws (t : Trap) : (s.faultEntry t).draws = s.draws := rfl
@[simp] theorem State.faultEntry_bufDraw (t : Trap) : (s.faultEntry t).bufDraw = s.bufDraw := rfl

/-! ### performReset -/

@[simp] theorem State.performReset_pal : (s.performReset).pal = s.pal := rfl
@[simp] theorem State.performReset_pix : (s.performReset).pix = s.pix := rfl
@[simp] theorem State.performReset_bmp : (s.performReset).bmp = if s.busy then [] else s.bmp := rfl
@[simp] theorem State.performReset_scr : (s.performReset).scr = if s.busy then [] else s.scr := rfl
@[simp] theorem State.performReset_col : (s.performReset).col = if s.busy then [] else s.col := rfl
@[simp] theorem State.performReset_bg : (s.performReset).bg = 0#4 := rfl
@[simp] theorem State.performReset_idx : (s.performReset).idx = 0#4 := rfl
@[simp] theorem State.performReset_pend : (s.performReset).pend = Config.anyWord s.draws := rfl
@[simp] theorem State.performReset_busy : (s.performReset).busy = false := rfl
@[simp] theorem State.performReset_done : (s.performReset).done = false := rfl
@[simp] theorem State.performReset_fault : (s.performReset).fault = false := rfl
@[simp] theorem State.performReset_ovr : (s.performReset).ovr = false := rfl
@[simp] theorem State.performReset_bgValid : (s.performReset).bgValid = false := rfl
@[simp] theorem State.performReset_ie : (s.performReset).ie = false := rfl
@[simp] theorem State.performReset_err : (s.performReset).err = 0#4 := rfl
@[simp] theorem State.performReset_errInfo : (s.performReset).errInfo = 0#32 := rfl
@[simp] theorem State.performReset_gridW : (s.performReset).gridW = 320#16 := rfl
@[simp] theorem State.performReset_gridH : (s.performReset).gridH = 200#16 := rfl
@[simp] theorem State.performReset_rst : (s.performReset).rst = s.rst := rfl
@[simp] theorem State.performReset_agenda : (s.performReset).agenda = s.agenda := rfl
@[simp] theorem State.performReset_replies : (s.performReset).replies = s.replies := rfl
@[simp] theorem State.performReset_busyLeft : (s.performReset).busyLeft = 0 := rfl
@[simp] theorem State.performReset_draws : (s.performReset).draws = s.draws + 1 := rfl
@[simp] theorem State.performReset_bufDraw : (s.performReset).bufDraw = if s.busy then s.draws else s.bufDraw := rfl

/-! ### clearStatus -/

@[simp] theorem State.clearStatus_pal (v : Word) : (s.clearStatus v).pal = s.pal := rfl
@[simp] theorem State.clearStatus_pix (v : Word) : (s.clearStatus v).pix = s.pix := rfl
@[simp] theorem State.clearStatus_bmp (v : Word) : (s.clearStatus v).bmp = s.bmp := rfl
@[simp] theorem State.clearStatus_scr (v : Word) : (s.clearStatus v).scr = s.scr := rfl
@[simp] theorem State.clearStatus_col (v : Word) : (s.clearStatus v).col = s.col := rfl
@[simp] theorem State.clearStatus_bg (v : Word) : (s.clearStatus v).bg = s.bg := rfl
@[simp] theorem State.clearStatus_idx (v : Word) : (s.clearStatus v).idx = s.idx := rfl
@[simp] theorem State.clearStatus_pend (v : Word) : (s.clearStatus v).pend = s.pend := rfl
@[simp] theorem State.clearStatus_busy (v : Word) : (s.clearStatus v).busy = s.busy := rfl
@[simp] theorem State.clearStatus_done (v : Word) : (s.clearStatus v).done = (s.done && !v.getLsbD 1) := rfl
@[simp] theorem State.clearStatus_fault (v : Word) : (s.clearStatus v).fault = s.fault := rfl
@[simp] theorem State.clearStatus_ovr (v : Word) : (s.clearStatus v).ovr = (s.ovr && !v.getLsbD 3) := rfl
@[simp] theorem State.clearStatus_bgValid (v : Word) : (s.clearStatus v).bgValid = s.bgValid := rfl
@[simp] theorem State.clearStatus_ie (v : Word) : (s.clearStatus v).ie = s.ie := rfl
@[simp] theorem State.clearStatus_err (v : Word) : (s.clearStatus v).err = s.err := rfl
@[simp] theorem State.clearStatus_errInfo (v : Word) : (s.clearStatus v).errInfo = s.errInfo := rfl
@[simp] theorem State.clearStatus_gridW (v : Word) : (s.clearStatus v).gridW = s.gridW := rfl
@[simp] theorem State.clearStatus_gridH (v : Word) : (s.clearStatus v).gridH = s.gridH := rfl
@[simp] theorem State.clearStatus_rst (v : Word) : (s.clearStatus v).rst = s.rst := rfl
@[simp] theorem State.clearStatus_agenda (v : Word) : (s.clearStatus v).agenda = s.agenda := rfl
@[simp] theorem State.clearStatus_replies (v : Word) : (s.clearStatus v).replies = s.replies := rfl
@[simp] theorem State.clearStatus_busyLeft (v : Word) : (s.clearStatus v).busyLeft = s.busyLeft := rfl
@[simp] theorem State.clearStatus_draws (v : Word) : (s.clearStatus v).draws = s.draws := rfl
@[simp] theorem State.clearStatus_bufDraw (v : Word) : (s.clearStatus v).bufDraw = s.bufDraw := rfl

/-! ### setIe -/

@[simp] theorem State.setIe_pal (v : Word) : (s.setIe v).pal = s.pal := rfl
@[simp] theorem State.setIe_pix (v : Word) : (s.setIe v).pix = s.pix := rfl
@[simp] theorem State.setIe_bmp (v : Word) : (s.setIe v).bmp = s.bmp := rfl
@[simp] theorem State.setIe_scr (v : Word) : (s.setIe v).scr = s.scr := rfl
@[simp] theorem State.setIe_col (v : Word) : (s.setIe v).col = s.col := rfl
@[simp] theorem State.setIe_bg (v : Word) : (s.setIe v).bg = s.bg := rfl
@[simp] theorem State.setIe_idx (v : Word) : (s.setIe v).idx = s.idx := rfl
@[simp] theorem State.setIe_pend (v : Word) : (s.setIe v).pend = s.pend := rfl
@[simp] theorem State.setIe_busy (v : Word) : (s.setIe v).busy = s.busy := rfl
@[simp] theorem State.setIe_done (v : Word) : (s.setIe v).done = s.done := rfl
@[simp] theorem State.setIe_fault (v : Word) : (s.setIe v).fault = s.fault := rfl
@[simp] theorem State.setIe_ovr (v : Word) : (s.setIe v).ovr = s.ovr := rfl
@[simp] theorem State.setIe_bgValid (v : Word) : (s.setIe v).bgValid = s.bgValid := rfl
@[simp] theorem State.setIe_ie (v : Word) : (s.setIe v).ie = v.getLsbD 0 := rfl
@[simp] theorem State.setIe_err (v : Word) : (s.setIe v).err = s.err := rfl
@[simp] theorem State.setIe_errInfo (v : Word) : (s.setIe v).errInfo = s.errInfo := rfl
@[simp] theorem State.setIe_gridW (v : Word) : (s.setIe v).gridW = s.gridW := rfl
@[simp] theorem State.setIe_gridH (v : Word) : (s.setIe v).gridH = s.gridH := rfl
@[simp] theorem State.setIe_rst (v : Word) : (s.setIe v).rst = s.rst := rfl
@[simp] theorem State.setIe_agenda (v : Word) : (s.setIe v).agenda = s.agenda := rfl
@[simp] theorem State.setIe_replies (v : Word) : (s.setIe v).replies = s.replies := rfl
@[simp] theorem State.setIe_busyLeft (v : Word) : (s.setIe v).busyLeft = s.busyLeft := rfl
@[simp] theorem State.setIe_draws (v : Word) : (s.setIe v).draws = s.draws := rfl
@[simp] theorem State.setIe_bufDraw (v : Word) : (s.setIe v).bufDraw = s.bufDraw := rfl

/-! ### overrun -/

@[simp] theorem State.overrun_pal : (s.overrun).pal = s.pal := rfl
@[simp] theorem State.overrun_pix : (s.overrun).pix = s.pix := rfl
@[simp] theorem State.overrun_bmp : (s.overrun).bmp = s.bmp := rfl
@[simp] theorem State.overrun_scr : (s.overrun).scr = s.scr := rfl
@[simp] theorem State.overrun_col : (s.overrun).col = s.col := rfl
@[simp] theorem State.overrun_bg : (s.overrun).bg = s.bg := rfl
@[simp] theorem State.overrun_idx : (s.overrun).idx = s.idx := rfl
@[simp] theorem State.overrun_pend : (s.overrun).pend = s.pend := rfl
@[simp] theorem State.overrun_busy : (s.overrun).busy = s.busy := rfl
@[simp] theorem State.overrun_done : (s.overrun).done = s.done := rfl
@[simp] theorem State.overrun_fault : (s.overrun).fault = s.fault := rfl
@[simp] theorem State.overrun_ovr : (s.overrun).ovr = true := rfl
@[simp] theorem State.overrun_bgValid : (s.overrun).bgValid = s.bgValid := rfl
@[simp] theorem State.overrun_ie : (s.overrun).ie = s.ie := rfl
@[simp] theorem State.overrun_err : (s.overrun).err = s.err := rfl
@[simp] theorem State.overrun_errInfo : (s.overrun).errInfo = s.errInfo := rfl
@[simp] theorem State.overrun_gridW : (s.overrun).gridW = s.gridW := rfl
@[simp] theorem State.overrun_gridH : (s.overrun).gridH = s.gridH := rfl
@[simp] theorem State.overrun_rst : (s.overrun).rst = s.rst := rfl
@[simp] theorem State.overrun_agenda : (s.overrun).agenda = s.agenda := rfl
@[simp] theorem State.overrun_replies : (s.overrun).replies = s.replies := rfl
@[simp] theorem State.overrun_busyLeft : (s.overrun).busyLeft = s.busyLeft := rfl
@[simp] theorem State.overrun_draws : (s.overrun).draws = s.draws := rfl
@[simp] theorem State.overrun_bufDraw : (s.overrun).bufDraw = s.bufDraw := rfl

/-! ### accept -/

@[simp] theorem State.accept_pal (w : Word) : (s.accept w).pal = s.pal := rfl
@[simp] theorem State.accept_pix (w : Word) : (s.accept w).pix = s.pix := rfl
@[simp] theorem State.accept_bmp (w : Word) : (s.accept w).bmp = s.bmp := rfl
@[simp] theorem State.accept_scr (w : Word) : (s.accept w).scr = s.scr := rfl
@[simp] theorem State.accept_col (w : Word) : (s.accept w).col = s.col := rfl
@[simp] theorem State.accept_bg (w : Word) : (s.accept w).bg = s.bg := rfl
@[simp] theorem State.accept_idx (w : Word) : (s.accept w).idx = s.idx := rfl
@[simp] theorem State.accept_pend (w : Word) : (s.accept w).pend = w := rfl
@[simp] theorem State.accept_busy (w : Word) : (s.accept w).busy = true := rfl
@[simp] theorem State.accept_done (w : Word) : (s.accept w).done = false := rfl
@[simp] theorem State.accept_fault (w : Word) : (s.accept w).fault = s.fault := rfl
@[simp] theorem State.accept_ovr (w : Word) : (s.accept w).ovr = s.ovr := rfl
@[simp] theorem State.accept_bgValid (w : Word) : (s.accept w).bgValid = s.bgValid := rfl
@[simp] theorem State.accept_ie (w : Word) : (s.accept w).ie = s.ie := rfl
@[simp] theorem State.accept_err (w : Word) : (s.accept w).err = s.err := rfl
@[simp] theorem State.accept_errInfo (w : Word) : (s.accept w).errInfo = s.errInfo := rfl
@[simp] theorem State.accept_gridW (w : Word) : (s.accept w).gridW = s.gridW := rfl
@[simp] theorem State.accept_gridH (w : Word) : (s.accept w).gridH = s.gridH := rfl
@[simp] theorem State.accept_rst (w : Word) : (s.accept w).rst = s.rst := rfl
@[simp] theorem State.accept_agenda (w : Word) : (s.accept w).agenda = s.agenda := rfl
@[simp] theorem State.accept_replies (w : Word) : (s.accept w).replies = s.replies := rfl
@[simp] theorem State.accept_busyLeft (w : Word) : (s.accept w).busyLeft = Config.busyTime s.draws := rfl
@[simp] theorem State.accept_draws (w : Word) : (s.accept w).draws = s.draws + 1 := rfl
@[simp] theorem State.accept_bufDraw (w : Word) : (s.accept w).bufDraw = s.bufDraw := rfl

/-! ### markDone -/

@[simp] theorem State.markDone_pal : (s.markDone).pal = s.pal := rfl
@[simp] theorem State.markDone_pix : (s.markDone).pix = s.pix := rfl
@[simp] theorem State.markDone_bmp : (s.markDone).bmp = s.bmp := rfl
@[simp] theorem State.markDone_scr : (s.markDone).scr = s.scr := rfl
@[simp] theorem State.markDone_col : (s.markDone).col = s.col := rfl
@[simp] theorem State.markDone_bg : (s.markDone).bg = s.bg := rfl
@[simp] theorem State.markDone_idx : (s.markDone).idx = s.idx := rfl
@[simp] theorem State.markDone_pend : (s.markDone).pend = s.pend := rfl
@[simp] theorem State.markDone_busy : (s.markDone).busy = false := rfl
@[simp] theorem State.markDone_done : (s.markDone).done = true := rfl
@[simp] theorem State.markDone_fault : (s.markDone).fault = s.fault := rfl
@[simp] theorem State.markDone_ovr : (s.markDone).ovr = s.ovr := rfl
@[simp] theorem State.markDone_bgValid : (s.markDone).bgValid = s.bgValid := rfl
@[simp] theorem State.markDone_ie : (s.markDone).ie = s.ie := rfl
@[simp] theorem State.markDone_err : (s.markDone).err = s.err := rfl
@[simp] theorem State.markDone_errInfo : (s.markDone).errInfo = s.errInfo := rfl
@[simp] theorem State.markDone_gridW : (s.markDone).gridW = s.gridW := rfl
@[simp] theorem State.markDone_gridH : (s.markDone).gridH = s.gridH := rfl
@[simp] theorem State.markDone_rst : (s.markDone).rst = s.rst := rfl
@[simp] theorem State.markDone_agenda : (s.markDone).agenda = s.agenda := rfl
@[simp] theorem State.markDone_replies : (s.markDone).replies = s.replies := rfl
@[simp] theorem State.markDone_busyLeft : (s.markDone).busyLeft = s.busyLeft := rfl
@[simp] theorem State.markDone_draws : (s.markDone).draws = s.draws := rfl
@[simp] theorem State.markDone_bufDraw : (s.markDone).bufDraw = s.bufDraw := rfl

/-! ### writeCell -/

@[simp] theorem State.writeCell_pal (c : Nat) (q : CellImage) : (s.writeCell c q).pal = s.pal := rfl
@[simp] theorem State.writeCell_pix (c : Nat) (q : CellImage) : (s.writeCell c q).pix = s.pix := rfl
@[simp] theorem State.writeCell_bmp (c : Nat) (q : CellImage) : (s.writeCell c q).bmp = s.bmp.putFrom (bmpOffset c 0) q.bm := rfl
@[simp] theorem State.writeCell_scr (c : Nat) (q : CellImage) : (s.writeCell c q).scr = s.scr.put c q.scr := rfl
@[simp] theorem State.writeCell_col (c : Nat) (q : CellImage) : (s.writeCell c q).col = s.col.put c q.col := rfl
@[simp] theorem State.writeCell_bg (c : Nat) (q : CellImage) : (s.writeCell c q).bg = s.bg := rfl
@[simp] theorem State.writeCell_idx (c : Nat) (q : CellImage) : (s.writeCell c q).idx = s.idx := rfl
@[simp] theorem State.writeCell_pend (c : Nat) (q : CellImage) : (s.writeCell c q).pend = s.pend := rfl
@[simp] theorem State.writeCell_busy (c : Nat) (q : CellImage) : (s.writeCell c q).busy = s.busy := rfl
@[simp] theorem State.writeCell_done (c : Nat) (q : CellImage) : (s.writeCell c q).done = s.done := rfl
@[simp] theorem State.writeCell_fault (c : Nat) (q : CellImage) : (s.writeCell c q).fault = s.fault := rfl
@[simp] theorem State.writeCell_ovr (c : Nat) (q : CellImage) : (s.writeCell c q).ovr = s.ovr := rfl
@[simp] theorem State.writeCell_bgValid (c : Nat) (q : CellImage) : (s.writeCell c q).bgValid = s.bgValid := rfl
@[simp] theorem State.writeCell_ie (c : Nat) (q : CellImage) : (s.writeCell c q).ie = s.ie := rfl
@[simp] theorem State.writeCell_err (c : Nat) (q : CellImage) : (s.writeCell c q).err = s.err := rfl
@[simp] theorem State.writeCell_errInfo (c : Nat) (q : CellImage) : (s.writeCell c q).errInfo = s.errInfo := rfl
@[simp] theorem State.writeCell_gridW (c : Nat) (q : CellImage) : (s.writeCell c q).gridW = s.gridW := rfl
@[simp] theorem State.writeCell_gridH (c : Nat) (q : CellImage) : (s.writeCell c q).gridH = s.gridH := rfl
@[simp] theorem State.writeCell_rst (c : Nat) (q : CellImage) : (s.writeCell c q).rst = s.rst := rfl
@[simp] theorem State.writeCell_agenda (c : Nat) (q : CellImage) : (s.writeCell c q).agenda = s.agenda := rfl
@[simp] theorem State.writeCell_replies (c : Nat) (q : CellImage) : (s.writeCell c q).replies = s.replies := rfl
@[simp] theorem State.writeCell_busyLeft (c : Nat) (q : CellImage) : (s.writeCell c q).busyLeft = s.busyLeft := rfl
@[simp] theorem State.writeCell_draws (c : Nat) (q : CellImage) : (s.writeCell c q).draws = s.draws := rfl
@[simp] theorem State.writeCell_bufDraw (c : Nat) (q : CellImage) : (s.writeCell c q).bufDraw = s.bufDraw := rfl

/-! ### reply -/

@[simp] theorem State.reply_pal (r : Reply) : (s.reply r).pal = s.pal := rfl
@[simp] theorem State.reply_pix (r : Reply) : (s.reply r).pix = s.pix := rfl
@[simp] theorem State.reply_bmp (r : Reply) : (s.reply r).bmp = s.bmp := rfl
@[simp] theorem State.reply_scr (r : Reply) : (s.reply r).scr = s.scr := rfl
@[simp] theorem State.reply_col (r : Reply) : (s.reply r).col = s.col := rfl
@[simp] theorem State.reply_bg (r : Reply) : (s.reply r).bg = s.bg := rfl
@[simp] theorem State.reply_idx (r : Reply) : (s.reply r).idx = s.idx := rfl
@[simp] theorem State.reply_pend (r : Reply) : (s.reply r).pend = s.pend := rfl
@[simp] theorem State.reply_busy (r : Reply) : (s.reply r).busy = s.busy := rfl
@[simp] theorem State.reply_done (r : Reply) : (s.reply r).done = s.done := rfl
@[simp] theorem State.reply_fault (r : Reply) : (s.reply r).fault = s.fault := rfl
@[simp] theorem State.reply_ovr (r : Reply) : (s.reply r).ovr = s.ovr := rfl
@[simp] theorem State.reply_bgValid (r : Reply) : (s.reply r).bgValid = s.bgValid := rfl
@[simp] theorem State.reply_ie (r : Reply) : (s.reply r).ie = s.ie := rfl
@[simp] theorem State.reply_err (r : Reply) : (s.reply r).err = s.err := rfl
@[simp] theorem State.reply_errInfo (r : Reply) : (s.reply r).errInfo = s.errInfo := rfl
@[simp] theorem State.reply_gridW (r : Reply) : (s.reply r).gridW = s.gridW := rfl
@[simp] theorem State.reply_gridH (r : Reply) : (s.reply r).gridH = s.gridH := rfl
@[simp] theorem State.reply_rst (r : Reply) : (s.reply r).rst = s.rst := rfl
@[simp] theorem State.reply_agenda (r : Reply) : (s.reply r).agenda = s.agenda := rfl
@[simp] theorem State.reply_replies (r : Reply) : (s.reply r).replies = s.replies ++ [r] := rfl
@[simp] theorem State.reply_busyLeft (r : Reply) : (s.reply r).busyLeft = s.busyLeft := rfl
@[simp] theorem State.reply_draws (r : Reply) : (s.reply r).draws = s.draws := rfl
@[simp] theorem State.reply_bufDraw (r : Reply) : (s.reply r).bufDraw = s.bufDraw := rfl

/-! ### nextDraw -/

@[simp] theorem State.nextDraw_pal : (s.nextDraw).pal = s.pal := rfl
@[simp] theorem State.nextDraw_pix : (s.nextDraw).pix = s.pix := rfl
@[simp] theorem State.nextDraw_bmp : (s.nextDraw).bmp = s.bmp := rfl
@[simp] theorem State.nextDraw_scr : (s.nextDraw).scr = s.scr := rfl
@[simp] theorem State.nextDraw_col : (s.nextDraw).col = s.col := rfl
@[simp] theorem State.nextDraw_bg : (s.nextDraw).bg = s.bg := rfl
@[simp] theorem State.nextDraw_idx : (s.nextDraw).idx = s.idx := rfl
@[simp] theorem State.nextDraw_pend : (s.nextDraw).pend = s.pend := rfl
@[simp] theorem State.nextDraw_busy : (s.nextDraw).busy = s.busy := rfl
@[simp] theorem State.nextDraw_done : (s.nextDraw).done = s.done := rfl
@[simp] theorem State.nextDraw_fault : (s.nextDraw).fault = s.fault := rfl
@[simp] theorem State.nextDraw_ovr : (s.nextDraw).ovr = s.ovr := rfl
@[simp] theorem State.nextDraw_bgValid : (s.nextDraw).bgValid = s.bgValid := rfl
@[simp] theorem State.nextDraw_ie : (s.nextDraw).ie = s.ie := rfl
@[simp] theorem State.nextDraw_err : (s.nextDraw).err = s.err := rfl
@[simp] theorem State.nextDraw_errInfo : (s.nextDraw).errInfo = s.errInfo := rfl
@[simp] theorem State.nextDraw_gridW : (s.nextDraw).gridW = s.gridW := rfl
@[simp] theorem State.nextDraw_gridH : (s.nextDraw).gridH = s.gridH := rfl
@[simp] theorem State.nextDraw_rst : (s.nextDraw).rst = s.rst := rfl
@[simp] theorem State.nextDraw_agenda : (s.nextDraw).agenda = s.agenda := rfl
@[simp] theorem State.nextDraw_replies : (s.nextDraw).replies = s.replies := rfl
@[simp] theorem State.nextDraw_busyLeft : (s.nextDraw).busyLeft = s.busyLeft := rfl
@[simp] theorem State.nextDraw_draws : (s.nextDraw).draws = s.draws + 1 := rfl
@[simp] theorem State.nextDraw_bufDraw : (s.nextDraw).bufDraw = s.bufDraw := rfl

/-! ### setGridW -/

@[simp] theorem State.setGridW_pal (v : Word) : (s.setGridW v).pal = s.pal := rfl
@[simp] theorem State.setGridW_pix (v : Word) : (s.setGridW v).pix = s.pix := rfl
@[simp] theorem State.setGridW_bmp (v : Word) : (s.setGridW v).bmp = s.bmp := rfl
@[simp] theorem State.setGridW_scr (v : Word) : (s.setGridW v).scr = s.scr := rfl
@[simp] theorem State.setGridW_col (v : Word) : (s.setGridW v).col = s.col := rfl
@[simp] theorem State.setGridW_bg (v : Word) : (s.setGridW v).bg = s.bg := rfl
@[simp] theorem State.setGridW_idx (v : Word) : (s.setGridW v).idx = s.idx := rfl
@[simp] theorem State.setGridW_pend (v : Word) : (s.setGridW v).pend = s.pend := rfl
@[simp] theorem State.setGridW_busy (v : Word) : (s.setGridW v).busy = s.busy := rfl
@[simp] theorem State.setGridW_done (v : Word) : (s.setGridW v).done = s.done := rfl
@[simp] theorem State.setGridW_fault (v : Word) : (s.setGridW v).fault = s.fault := rfl
@[simp] theorem State.setGridW_ovr (v : Word) : (s.setGridW v).ovr = s.ovr := rfl
@[simp] theorem State.setGridW_bgValid (v : Word) : (s.setGridW v).bgValid = s.bgValid := rfl
@[simp] theorem State.setGridW_ie (v : Word) : (s.setGridW v).ie = s.ie := rfl
@[simp] theorem State.setGridW_err (v : Word) : (s.setGridW v).err = s.err := rfl
@[simp] theorem State.setGridW_errInfo (v : Word) : (s.setGridW v).errInfo = s.errInfo := rfl
@[simp] theorem State.setGridW_gridW (v : Word) : (s.setGridW v).gridW = v.setWidth 16 := rfl
@[simp] theorem State.setGridW_gridH (v : Word) : (s.setGridW v).gridH = s.gridH := rfl
@[simp] theorem State.setGridW_rst (v : Word) : (s.setGridW v).rst = s.rst := rfl
@[simp] theorem State.setGridW_agenda (v : Word) : (s.setGridW v).agenda = s.agenda := rfl
@[simp] theorem State.setGridW_replies (v : Word) : (s.setGridW v).replies = s.replies := rfl
@[simp] theorem State.setGridW_busyLeft (v : Word) : (s.setGridW v).busyLeft = s.busyLeft := rfl
@[simp] theorem State.setGridW_draws (v : Word) : (s.setGridW v).draws = s.draws := rfl
@[simp] theorem State.setGridW_bufDraw (v : Word) : (s.setGridW v).bufDraw = s.bufDraw := rfl

/-! ### setGridH -/

@[simp] theorem State.setGridH_pal (v : Word) : (s.setGridH v).pal = s.pal := rfl
@[simp] theorem State.setGridH_pix (v : Word) : (s.setGridH v).pix = s.pix := rfl
@[simp] theorem State.setGridH_bmp (v : Word) : (s.setGridH v).bmp = s.bmp := rfl
@[simp] theorem State.setGridH_scr (v : Word) : (s.setGridH v).scr = s.scr := rfl
@[simp] theorem State.setGridH_col (v : Word) : (s.setGridH v).col = s.col := rfl
@[simp] theorem State.setGridH_bg (v : Word) : (s.setGridH v).bg = s.bg := rfl
@[simp] theorem State.setGridH_idx (v : Word) : (s.setGridH v).idx = s.idx := rfl
@[simp] theorem State.setGridH_pend (v : Word) : (s.setGridH v).pend = s.pend := rfl
@[simp] theorem State.setGridH_busy (v : Word) : (s.setGridH v).busy = s.busy := rfl
@[simp] theorem State.setGridH_done (v : Word) : (s.setGridH v).done = s.done := rfl
@[simp] theorem State.setGridH_fault (v : Word) : (s.setGridH v).fault = s.fault := rfl
@[simp] theorem State.setGridH_ovr (v : Word) : (s.setGridH v).ovr = s.ovr := rfl
@[simp] theorem State.setGridH_bgValid (v : Word) : (s.setGridH v).bgValid = s.bgValid := rfl
@[simp] theorem State.setGridH_ie (v : Word) : (s.setGridH v).ie = s.ie := rfl
@[simp] theorem State.setGridH_err (v : Word) : (s.setGridH v).err = s.err := rfl
@[simp] theorem State.setGridH_errInfo (v : Word) : (s.setGridH v).errInfo = s.errInfo := rfl
@[simp] theorem State.setGridH_gridW (v : Word) : (s.setGridH v).gridW = s.gridW := rfl
@[simp] theorem State.setGridH_gridH (v : Word) : (s.setGridH v).gridH = v.setWidth 16 := rfl
@[simp] theorem State.setGridH_rst (v : Word) : (s.setGridH v).rst = s.rst := rfl
@[simp] theorem State.setGridH_agenda (v : Word) : (s.setGridH v).agenda = s.agenda := rfl
@[simp] theorem State.setGridH_replies (v : Word) : (s.setGridH v).replies = s.replies := rfl
@[simp] theorem State.setGridH_busyLeft (v : Word) : (s.setGridH v).busyLeft = s.busyLeft := rfl
@[simp] theorem State.setGridH_draws (v : Word) : (s.setGridH v).draws = s.draws := rfl
@[simp] theorem State.setGridH_bufDraw (v : Word) : (s.setGridH v).bufDraw = s.bufDraw := rfl

/-! ### withPending -/

@[simp] theorem State.withPending_pal (w : Word) : (s.withPending w).pal = s.pal := rfl
@[simp] theorem State.withPending_pix (w : Word) : (s.withPending w).pix = s.pix := rfl
@[simp] theorem State.withPending_bmp (w : Word) : (s.withPending w).bmp = s.bmp := rfl
@[simp] theorem State.withPending_scr (w : Word) : (s.withPending w).scr = s.scr := rfl
@[simp] theorem State.withPending_col (w : Word) : (s.withPending w).col = s.col := rfl
@[simp] theorem State.withPending_bg (w : Word) : (s.withPending w).bg = s.bg := rfl
@[simp] theorem State.withPending_idx (w : Word) : (s.withPending w).idx = s.idx := rfl
@[simp] theorem State.withPending_pend (w : Word) : (s.withPending w).pend = w := rfl
@[simp] theorem State.withPending_busy (w : Word) : (s.withPending w).busy = true := rfl
@[simp] theorem State.withPending_done (w : Word) : (s.withPending w).done = false := rfl
@[simp] theorem State.withPending_fault (w : Word) : (s.withPending w).fault = s.fault := rfl
@[simp] theorem State.withPending_ovr (w : Word) : (s.withPending w).ovr = s.ovr := rfl
@[simp] theorem State.withPending_bgValid (w : Word) : (s.withPending w).bgValid = s.bgValid := rfl
@[simp] theorem State.withPending_ie (w : Word) : (s.withPending w).ie = s.ie := rfl
@[simp] theorem State.withPending_err (w : Word) : (s.withPending w).err = s.err := rfl
@[simp] theorem State.withPending_errInfo (w : Word) : (s.withPending w).errInfo = s.errInfo := rfl
@[simp] theorem State.withPending_gridW (w : Word) : (s.withPending w).gridW = s.gridW := rfl
@[simp] theorem State.withPending_gridH (w : Word) : (s.withPending w).gridH = s.gridH := rfl
@[simp] theorem State.withPending_rst (w : Word) : (s.withPending w).rst = s.rst := rfl
@[simp] theorem State.withPending_agenda (w : Word) : (s.withPending w).agenda = s.agenda := rfl
@[simp] theorem State.withPending_replies (w : Word) : (s.withPending w).replies = s.replies := rfl
@[simp] theorem State.withPending_busyLeft (w : Word) : (s.withPending w).busyLeft = 0 := rfl
@[simp] theorem State.withPending_draws (w : Word) : (s.withPending w).draws = s.draws := rfl
@[simp] theorem State.withPending_bufDraw (w : Word) : (s.withPending w).bufDraw = s.bufDraw := rfl

end Sys2Proof.Machine
end

