-- ==== Sys2Proof/Laws/Bus.lean ====
section
/-! SUPPORT. Everything a bus transaction or the reset line can do, said once. -/

namespace Sys2Proof.Machine

theorem regAt_ne_pix (i a : Nat) : regAt i ≠ .pix a := by
  unfold regAt
  repeat' split
  all_goals exact fun h => by cases h

/-- A `PIX` address is its own index, below NPIX. -/
theorem regionAt_pix {n a : Nat} (h : regionAt n = .pix a) : a = n ∧ a < Config.pixelCount := by
  unfold regionAt at h
  split at h
  · rename_i hn
    cases h
    exact ⟨rfl, hn⟩
  · repeat' split at h
    all_goals first | exact absurd h (regAt_ne_pix _ _) | cases h

/-- A place among the registers, from the word it names. -/
theorem regAt_ctrl {i : Nat} (h : regAt i = .reg .ctrl) : i = 2 := by
  unfold regAt at h
  repeat' split at h
  all_goals first | assumption | cases h

/-- The only aligned address of `CTRL`. -/
theorem regionOf_ctrl {addr : HostAddr} (h : regionOf addr = .reg .ctrl) (ha : addr.toNat % 4 = 0) :
    addr = 0x13008#17 := by
  apply BitVec.eq_of_toNat_eq
  show addr.toNat = 0x13008
  generalize hn : addr.toNat = n at ha
  rw [regionOf, hn] at h
  unfold regionAt at h
  repeat' split at h
  all_goals first | (have := regAt_ctrl h; omega) | cases h

/-- A place among the registers, from the word it names. -/
theorem regAt_cmd {i : Nat} (h : regAt i = .reg .cmd) : i = 0 := by
  unfold regAt at h
  repeat' split at h
  all_goals first | assumption | cases h

/-- The only aligned address of `CMD`. -/
theorem regionOf_cmd {addr : HostAddr} (h : regionOf addr = .reg .cmd) (ha : addr.toNat % 4 = 0) :
    addr = 0x13000#17 := by
  apply BitVec.eq_of_toNat_eq
  show addr.toNat = 0x13000
  generalize hn : addr.toNat = n at ha
  rw [regionOf, hn] at h
  unfold regionAt at h
  repeat' split at h
  all_goals first | (have := regAt_cmd h; omega) | cases h

/-- A bus read changes nothing but the responses given and the count of draws. -/
theorem hostRead_frame (s : State) (addr : HostAddr) (n : Nat) :
    ∃ r d, s.hostRead addr n = { s with replies := s.replies ++ [r], draws := d } := by
  have hb : ∀ v, ∃ r d, s.readBuffer v = { s with replies := s.replies ++ [r], draws := d } := fun v => by
    simp only [State.readBuffer]; split
    · exact ⟨_, _, rfl⟩
    · exact ⟨_, s.draws, rfl⟩
  have hr : ∀ k, ∃ r d, s.readResult k = { s with replies := s.replies ++ [r], draws := d } := fun k => by
    simp only [State.readResult]; split
    · exact ⟨_, _, rfl⟩
    · exact ⟨_, s.draws, rfl⟩
  simp only [State.hostRead]
  split
  · cases regionOf addr with
    | bmp o => exact hb _
    | scr c => exact hb _
    | col c => exact hb _
    | reg r => cases r <;> first | exact hr _ | exact ⟨_, s.draws, rfl⟩
    | pix a => exact ⟨_, s.draws, rfl⟩
    | palRom i => exact ⟨_, s.draws, rfl⟩
    | unmapped => exact ⟨_, s.draws, rfl⟩
  · exact ⟨_, s.draws, rfl⟩

/-- Everything a write that is no bus error can do. -/
inductive WriteEffect (s : State) (v : Word) (r : Region) : State → Prop where
  | none : WriteEffect s v r s
  | dropped : s.busy = true → WriteEffect s v r s.overrun
  | pixel (a : Nat) : r = .pix a → s.busy = false → a < Config.pixelCount → WriteEffect s v r (s.writePix a (v.setWidth 8))
  | accepted : r = .reg .cmd → s.busy = false → s.fault = false → WriteEffect s v r (s.accept v)
  | status : r = .reg .status → WriteEffect s v r (s.clearStatus v)
  | reset : r = .reg .ctrl → v.getLsbD 31 = true → WriteEffect s v r s.performReset
  | enable : r = .reg .ctrl → v.getLsbD 31 = false → WriteEffect s v r (s.setIe v)
  | width : r = .reg .gridW → s.busy = false → WriteEffect s v r (s.setGridW v)
  | height : r = .reg .gridH → s.busy = false → WriteEffect s v r (s.setGridH v)

theorem offer_effect (s : State) (w : Word) : WriteEffect s w (.reg .cmd) (s.offer w) := by
  simp only [State.offer]
  split
  · exact .none
  · split
    · exact .dropped ‹_›
    · exact .accepted rfl (by simpa using ‹¬s.busy = true›) (by simpa using ‹¬s.fault = true›)

theorem writeRegion_effect (s : State) (v : Word) (addr : HostAddr) :
    WriteEffect s v (regionOf addr) (s.writeRegion v (regionOf addr)) := by
  cases hr : regionOf addr with
  | pix a =>
    simp only [State.writeRegion]
    split
    · exact .dropped ‹_›
    · exact .pixel a rfl (by simpa using ‹¬s.busy = true›) (regionAt_pix hr).2
  | reg r =>
    cases r <;> simp only [State.writeRegion]
    case cmd => exact offer_effect s v
    case status => exact .status rfl
    case ctrl =>
      simp only [State.writeCtrl]
      split
      · exact .reset rfl ‹_›
      · exact .enable rfl (by simpa using ‹¬v.getLsbD 31 = true›)
    case gridW =>
      split
      · exact .dropped ‹_›
      · exact .width rfl (by simpa using ‹¬s.busy = true›)
    case gridH =>
      split
      · exact .dropped ‹_›
      · exact .height rfl (by simpa using ‹¬s.busy = true›)
    all_goals exact .none
  | bmp o => exact .none
  | scr c => exact .none
  | col c => exact .none
  | palRom i => exact .none
  | unmapped => exact .none

/-- Everything a bus write can do: the effect of an allowed write with its response, or a bus error. -/
theorem hostWrite_cases (s : State) (addr : HostAddr) (n : Nat) (v : Word) :
    (writeAllowed s addr n = true ∧
      ∃ u, WriteEffect s v (regionOf addr) u ∧ s.hostWrite addr n v = u.reply .writeOk) ∨
      (writeAllowed s addr n = false ∧ s.hostWrite addr n v = s.reply .writeBusErr) := by
  simp only [State.hostWrite]
  cases h : writeAllowed s addr n
  · exact .inr ⟨rfl, by simp⟩
  · exact .inl ⟨rfl, _, writeRegion_effect s v addr, by simp⟩

/-- No bus transaction is allowed while the reset line is asserted. -/
theorem rst_of_writeAllowed {s : State} {addr : HostAddr} {n : Nat} (h : writeAllowed s addr n = true) :
    s.rst = false := by
  simp only [writeAllowed, Bool.and_eq_true, Bool.not_eq_true'] at h
  exact h.1.1

/-- An allowed write to `CTRL` is a word write at its address. -/
theorem writeAllowed_ctrl {s : State} {addr : HostAddr} {n : Nat} (h : writeAllowed s addr n = true)
    (hr : regionOf addr = .reg .ctrl) : addr = 0x13008#17 ∧ n = 4 := by
  simp only [writeAllowed, sizeFits, hr, Bool.and_eq_true, beq_iff_eq] at h
  exact ⟨regionOf_ctrl hr h.1.2.2, h.1.2.1⟩

/-- An allowed write to `CMD` is a word write at its address. -/
theorem writeAllowed_cmd {s : State} {addr : HostAddr} {n : Nat} (h : writeAllowed s addr n = true)
    (hr : regionOf addr = .reg .cmd) : addr = 0x13000#17 ∧ n = 4 := by
  simp only [writeAllowed, sizeFits, hr, Bool.and_eq_true, beq_iff_eq] at h
  exact ⟨regionOf_cmd hr h.1.2.2, h.1.2.1⟩

/-- Everything a change of the reset line can do. -/
theorem driveRst_cases (s : State) (b : Bool) :
    (b = true ∧ s.rst = false ∧ s.driveRst b = { s.performReset with rst := true }) ∨
      ((b = false ∨ s.rst = true) ∧ s.driveRst b = { s with rst := b }) := by
  simp only [State.driveRst]
  cases b <;> cases s.rst <;> simp

end Sys2Proof.Machine
end

