-- ==== Sys2Proof/Laws/Decode.lean ====
section
/-! SUPPORT. Command words and their fields as numbers, so that facts about the encoding are linear arithmetic. -/

namespace Sys2Proof

/-- A field of a word, as a number. -/
theorem toNat_field {n : Nat} (w : BitVec n) (start len : Nat) :
    (w.extractLsb' start len).toNat = w.toNat / 2 ^ start % 2 ^ len := by
  simp [BitVec.extractLsb'_toNat, Nat.shiftRight_eq_div_pow]

/-- Two words side by side, as a number. -/
theorem toNat_join {m n : Nat} (x : BitVec m) (y : BitVec n) : (x ++ y).toNat = x.toNat * 2 ^ n + y.toNat := by
  rw [BitVec.toNat_append, Nat.shiftLeft_eq, Nat.mul_comm, ← Nat.two_pow_add_eq_or_of_lt y.isLt]

theorem toNat_encode_matchRgb (r g b : Byte) :
    (encode (.matchRgb r g b)).toNat = 0x10000000 + r.toNat * 65536 + g.toNat * 256 + b.toNat := by
  simp only [encode, toNat_join, BitVec.toNat_ofNat]; omega

theorem toNat_encode_setbg (k : Color) : (encode (.setbg k)).toNat = 0x20000000 + k.toNat := by
  simp only [encode, toNat_join, BitVec.toNat_ofNat]; omega

theorem toNat_encode_qcell (c : BitVec 10) : (encode (.qcell c)).toNat = 0x40000000 + c.toNat := by
  simp only [encode, toNat_join, BitVec.toNat_ofNat]; omega

theorem toNat_opField (w : Word) : (opField w).toNat = w.toNat / 268435456 % 16 := toNat_field w 28 4

theorem toNat_zField (w : Word) : (zField w).toNat = w.toNat / 16777216 % 16 := toNat_field w 24 4

theorem toNat_argField (w : Word) : (argField w).toNat = w.toNat % 16777216 := by
  rw [argField, toNat_field]; simp

end Sys2Proof
end

