-- ==== Sys2Proof/Laws/Memory.lean ====
section
/-! SUPPORT. The laws of a memory: a read after a write, and that every write keeps the canonical form. -/

namespace Sys2Proof.Machine

@[simp] theorem Memory.find_nil (a : Nat) : Memory.find [] a = none := rfl

theorem Memory.find_put (m : Memory) (a : Nat) (v : Byte) (b : Nat) :
    (m.put a v).find b = if b = a then some v else m.find b := by
  induction m with
  | nil => simp [Memory.put, Memory.find]
  | cons x m ih =>
    obtain ⟨c, w⟩ := x
    simp only [Memory.put]
    split
    · simp only [Memory.find]
    · split
      · rename_i _ h; subst h; simp only [Memory.find]; split <;> simp_all
      · rename_i _ h
        simp only [Memory.find, ih]
        split
        · rename_i e; subst e; simp [Ne.symm h]
        · rfl

@[simp] theorem Memory.find_put_same (m : Memory) (a : Nat) (v : Byte) : (m.put a v).find a = some v := by
  simp [Memory.find_put]

theorem Memory.find_put_ne (m : Memory) {a b : Nat} (v : Byte) (h : b ≠ a) : (m.put a v).find b = m.find b := by
  simp [Memory.find_put, h]

theorem Memory.find_putFrom (m : Memory) (a : Nat) (vs : List Byte) (b : Nat) :
    (m.putFrom a vs).find b = if a ≤ b ∧ b < a + vs.length then vs[b - a]? else m.find b := by
  induction vs generalizing m a with
  | nil => simp [Memory.putFrom]
  | cons v vs ih =>
    rw [Memory.putFrom, ih, Memory.find_put]
    by_cases h : a + 1 ≤ b ∧ b < a + 1 + vs.length
    · rw [if_pos h, if_pos (by simp; omega), show b - a = (b - (a + 1)) + 1 by omega, List.getElem?_cons_succ]
    · rw [if_neg h]
      by_cases e : b = a
      · subst e; simp
      · rw [if_neg e, if_neg (by simp; omega)]

theorem Memory.putFrom_outside (m : Memory) {a : Nat} {vs : List Byte} {b : Nat} (h : b < a ∨ a + vs.length ≤ b) :
    (m.putFrom a vs).find b = m.find b := by
  rw [Memory.find_putFrom, if_neg (by omega)]

theorem Memory.mem_put {m : Memory} {a : Nat} {v : Byte} {x : Host.Cell} (h : x ∈ m.put a v) : x = (a, v) ∨ x ∈ m := by
  induction m with
  | nil => simpa [Memory.put] using h
  | cons y m ih =>
    simp only [Memory.put] at h
    split at h
    · simpa using h
    · split at h
      · rcases List.mem_cons.1 h with h | h
        · exact .inl h
        · exact .inr (List.mem_cons_of_mem _ h)
      · rcases List.mem_cons.1 h with h | h
        · exact .inr (h ▸ List.mem_cons_self)
        · exact (ih h).imp id (List.mem_cons_of_mem _)

theorem Memory.mem_putFrom {m : Memory} {a : Nat} {vs : List Byte} {x : Host.Cell} (h : x ∈ m.putFrom a vs) :
    (a ≤ x.1 ∧ x.1 < a + vs.length ∧ x.2 ∈ vs) ∨ x ∈ m := by
  induction vs generalizing m a with
  | nil => exact .inr h
  | cons v vs ih =>
    rcases ih h with ⟨h1, h2, h3⟩ | h
    · exact .inl ⟨by omega, by simp; omega, List.mem_cons_of_mem _ h3⟩
    · rcases Memory.mem_put h with rfl | h
      · exact .inl ⟨le_rfl, by simp, List.mem_cons_self⟩
      · exact .inr h

theorem Memory.put_pairwise {m : Memory} (a : Nat) (v : Byte) (h : m.Pairwise (fun x y => x.1 < y.1)) :
    (m.put a v).Pairwise (fun x y => x.1 < y.1) := by
  induction m with
  | nil => simp [Memory.put]
  | cons y m ih =>
    obtain ⟨hy, hm⟩ := List.pairwise_cons.1 h
    simp only [Memory.put]
    split
    · rename_i hlt
      refine List.pairwise_cons.2 ⟨fun x hx => ?_, h⟩
      rcases List.mem_cons.1 hx with rfl | hx
      · exact hlt
      · exact hlt.trans (hy x hx)
    · split
      · rename_i _ e; subst e; exact List.pairwise_cons.2 ⟨hy, hm⟩
      · refine List.pairwise_cons.2 ⟨fun x hx => ?_, ih hm⟩
        rcases Memory.mem_put hx with rfl | hx
        · simp only; omega
        · exact hy x hx

/-- A write inside a memory keeps its canonical form. -/
theorem Memory.put_wf {size : Nat} {m : Memory} (h : m.wf size) {a : Nat} (ha : a < size) (v : Byte) :
    (m.put a v).wf size :=
  ⟨Memory.put_pairwise a v h.1, fun x hx => (Memory.mem_put hx).elim (fun e => e ▸ ha) (h.2 x)⟩

/-- Writes inside a memory keep its canonical form. -/
theorem Memory.putFrom_wf {size : Nat} {m : Memory} (h : m.wf size) {a : Nat} (vs : List Byte)
    (ha : a + vs.length ≤ size) : (m.putFrom a vs).wf size := by
  induction vs generalizing m a with
  | nil => exact h
  | cons v vs ih =>
    simp only [List.length_cons] at ha
    exact ih (Memory.put_wf h (by omega) v) (by omega)

theorem Memory.nil_wf (size : Nat) : Memory.wf size [] := by simp [Memory.wf]

/-- In canonical form, a listed byte is the one the read finds. -/
theorem Memory.find_of_mem {m : Memory} (h : m.Pairwise (fun x y => x.1 < y.1)) {x : Host.Cell} (hx : x ∈ m) :
    m.find x.1 = some x.2 := by
  induction m with
  | nil => simp at hx
  | cons y m ih =>
    obtain ⟨hy, hm⟩ := List.pairwise_cons.1 h
    obtain ⟨b, w⟩ := y
    rcases List.mem_cons.1 hx with rfl | hx
    · simp [Memory.find]
    · have := hy x hx
      simp only [Memory.find, ih hm hx]
      rw [if_neg (by simp only at this; omega)]

/-- What the read finds is listed. -/
theorem Memory.mem_of_find {m : Memory} {a : Nat} {v : Byte} (h : m.find a = some v) : (a, v) ∈ m := by
  induction m with
  | nil => simp at h
  | cons y m ih =>
    obtain ⟨b, w⟩ := y
    simp only [Memory.find] at h
    split at h
    · rename_i e; cases h; subst e; exact List.mem_cons_self
    · exact List.mem_cons_of_mem _ (ih h)

end Sys2Proof.Machine
end

