-- ==== Sys2Proof/Laws/Operands.lean ====
section
/-! SUPPORT. The address computations stay inside their memories, and the checked read of pixels said once. -/

namespace Sys2Proof.Machine

theorem sampleAddr_eq (c i : Nat) : sampleAddr c i = ((c / 40) * 8 + i / 4) * 320 + ((c % 40) * 8 + i % 4 * 2) := rfl

theorem sampleAddr_lt {c i : Nat} (hc : c < Config.cellCount) (hi : i < Config.sampleCount) :
    sampleAddr c i < Config.pixelCount := by
  rw [sampleAddr_eq]
  simp only [Config.cellCount, Config.sampleCount, Config.pixelCount] at *
  omega

theorem mem_sampleAddrs {c a : Nat} : a ∈ sampleAddrs c ↔ ∃ i, i < Config.sampleCount ∧ sampleAddr c i = a := by
  simp [sampleAddrs, List.mem_range']

theorem mem_gridAddrs {a : Nat} : a ∈ gridAddrs ↔ a < Config.pixelCount := by
  simp [gridAddrs, List.mem_range']

theorem mem_cellIndices {c : Nat} : c ∈ cellIndices ↔ c < Config.cellCount := by
  simp [cellIndices, List.mem_range']

@[simp] theorem length_sampleAddrs (c : Nat) : (sampleAddrs c).length = 32 := by
  simp [sampleAddrs, Config.sampleCount]

@[simp] theorem length_samples (s : State) (c : Nat) : (s.samples c).length = 32 := by
  simp [State.samples, State.pixColors]

theorem sampleAddrs_subset_grid {c : Nat} (hc : c < Config.cellCount) {a : Nat} (h : a ∈ sampleAddrs c) :
    a ∈ gridAddrs := by
  obtain ⟨i, hi, rfl⟩ := mem_sampleAddrs.1 h
  exact mem_gridAddrs.2 (sampleAddr_lt hc hi)

@[simp] theorem mem_allColors (k : Color) : k ∈ allColors := by revert k; decide

theorem nodup_allColors : allColors.Nodup := by decide

theorem getElem?_allColors {i : Nat} (h : i < 16) : allColors[i]? = some (BitVec.ofNat 4 i) := by
  have : allColors = (List.range 16).map (BitVec.ofNat 4) := by decide
  simp [this, h]

@[simp] theorem length_allColors : allColors.length = 16 := by decide

/-- Reading pixels succeeds exactly where each is a colour index, with the colours they hold. -/
theorem readColors_eq_ok {s : State} {addrs : List Nat} {ks : List Color} :
    readColors s addrs = .ok ks ↔ s.validPixels addrs ∧ ks = s.pixColors addrs := by
  induction addrs generalizing ks with
  | nil => simp [readColors, State.validPixels, State.pixColors, eq_comm]
  | cons a as ih =>
    simp only [readColors, readColor, State.validPixels, State.pixColors, List.mem_cons, List.map_cons] at ih ⊢
    by_cases h : 15 < (s.pixByte a).toNat
    · simp only [h, if_true, reduceCtorEq, false_iff, not_and]
      intro hall
      exact absurd (hall a (.inl rfl)) (by omega)
    · simp only [h, if_false]
      cases hr : readColors s as with
      | error t =>
        simp only [reduceCtorEq, false_iff, not_and]
        intro hall
        have := (ih (ks := as.map fun a => (s.pixByte a).setWidth 4)).2 ⟨fun x hx => hall x (.inr hx), rfl⟩
        simp [hr] at this
      | ok ks' =>
        obtain ⟨h1, h2⟩ := ih.1 hr
        simp only [Except.ok.injEq]
        constructor
        · rintro rfl
          exact ⟨fun x hx => hx.elim (fun e => by subst e; omega) (h1 x), by rw [h2]⟩
        · rintro ⟨-, rfl⟩
          rw [h2]

/-- Reading pixels faults exactly at the first that is no colour index. -/
theorem readColors_eq_error {s : State} {addrs : List Nat} {t : Trap} :
    readColors s addrs = .error t ↔
      ∃ front a back, addrs = front ++ a :: back ∧ s.validPixels front ∧ 15 < (s.pixByte a).toNat ∧
        t = pixelTrap (s.pixByte a) a := by
  induction addrs with
  | nil => simp [readColors]
  | cons b as ih =>
    simp only [readColors, readColor]
    by_cases h : 15 < (s.pixByte b).toNat
    · simp only [h, if_true, Except.error.injEq]
      constructor
      · rintro rfl
        exact ⟨[], b, as, rfl, by simp [State.validPixels], h, rfl⟩
      · rintro ⟨front, a, back, he, hv, -, rfl⟩
        cases front with
        | nil => simp only [List.nil_append, List.cons.injEq] at he; rw [he.1]
        | cons c front =>
          simp only [List.cons_append, List.cons.injEq] at he
          exact absurd (hv b (by simp [he.1])) (by omega)
    · simp only [h, if_false]
      have hstep : (∃ front a back, b :: as = front ++ a :: back ∧ s.validPixels front ∧ 15 < (s.pixByte a).toNat ∧
          t = pixelTrap (s.pixByte a) a) ↔ (∃ front a back, as = front ++ a :: back ∧ s.validPixels front ∧
          15 < (s.pixByte a).toNat ∧ t = pixelTrap (s.pixByte a) a) := by
        constructor
        · rintro ⟨front, a, back, he, hv, ha, ht⟩
          cases front with
          | nil => simp only [List.nil_append, List.cons.injEq] at he; rw [← he.1] at ha; exact absurd ha h
          | cons c front =>
            simp only [List.cons_append, List.cons.injEq] at he
            exact ⟨front, a, back, he.2, fun x hx => hv x (List.mem_cons_of_mem _ hx), ha, ht⟩
        · rintro ⟨front, a, back, rfl, hv, ha, ht⟩
          refine ⟨b :: front, a, back, rfl, fun x hx => ?_, ha, ht⟩
          rcases List.mem_cons.1 hx with rfl | hx
          · omega
          · exact hv x hx
      rw [hstep, ← ih]
      cases readColors s as <;> simp

/-- Reading pixels answers colours, or the fault of one invalid pixel among them. -/
theorem readColors_cases (s : State) (addrs : List Nat) :
    (s.validPixels addrs ∧ readColors s addrs = .ok (s.pixColors addrs)) ∨
      ∃ a ∈ addrs, 15 < (s.pixByte a).toNat ∧ readColors s addrs = .error (pixelTrap (s.pixByte a) a) := by
  cases h : readColors s addrs with
  | ok ks => obtain ⟨h1, rfl⟩ := readColors_eq_ok.1 h; exact .inl ⟨h1, rfl⟩
  | error t =>
    obtain ⟨front, a, back, he, -, ha, rfl⟩ := readColors_eq_error.1 h
    exact .inr ⟨a, by simp [he], ha, rfl⟩

theorem validPixels_samples {s : State} (h : s.validPixels gridAddrs) {c : Nat} (hc : c < Config.cellCount) :
    s.validPixels (sampleAddrs c) := fun a ha => h a (sampleAddrs_subset_grid hc ha)

end Sys2Proof.Machine
end

