-- ==== Sys2Proof/Laws/Scan.lean ====
section
/-! SUPPORT. What the shared scan finds: the first best of a list of values, hence the first least and the first
greatest. -/

namespace Sys2Proof.Machine

/-- The scan from any point of it on, for a strict weak order `better`: the values seen are `pre`, the best of them
stands first at `best`. What it answers is the first best of all the values. -/
theorem scanBest_spec {better : Nat → Nat → Bool}
    (hasym : ∀ x y, better x y = true → better y x = false)
    (htrans : ∀ x y z, better x y = true → better z y = false → better x z = true)
    (l pre : List Nat) (best bestv : Nat) (hb : best < pre.length) (hv : pre[best]? = some bestv)
    (hbest : ∀ (j v : Nat), pre[j]? = some v → better v bestv = false)
    (hfirst : ∀ (j v : Nat), j < best → pre[j]? = some v → better bestv v = true) :
    ∃ w, (pre ++ l)[scanBest better pre.length best bestv l]? = some w ∧
      (∀ (j v : Nat), (pre ++ l)[j]? = some v → better v w = false) ∧
      ∀ (j v : Nat), j < scanBest better pre.length best bestv l → (pre ++ l)[j]? = some v → better w v = true := by
  induction l generalizing pre best bestv with
  | nil => simp only [List.append_nil, scanBest]; exact ⟨bestv, hv, hbest, hfirst⟩
  | cons x l ih =>
    have hlast : ∀ (j v : Nat), ¬j < pre.length → (pre ++ [x])[j]? = some v → v = x := fun j v hjl hj => by
      rw [List.getElem?_append_right (by omega), List.getElem?_singleton] at hj
      split at hj <;> simp_all
    have hinit : ∀ (j v : Nat), j < pre.length → (pre ++ [x])[j]? = some v → pre[j]? = some v := fun j v hjl hj => by
      rwa [List.getElem?_append_left hjl] at hj
    have hxx : better x x = false := by
      by_contra h
      have := hasym x x (by simpa using h)
      simp [this] at h
    simp only [scanBest]
    rw [show pre ++ x :: l = (pre ++ [x]) ++ l by simp]
    by_cases h : better x bestv = true
    · have := ih (pre ++ [x]) pre.length x (by simp) (by simp)
        (fun j v hj => by
          by_cases hjl : j < pre.length
          · exact hasym _ _ (htrans _ _ _ h (hbest j v (hinit j v hjl hj)))
          · rw [hlast j v hjl hj]; exact hxx)
        (fun j v hjl hj => htrans _ _ _ h (hbest j v (hinit j v hjl hj)))
      simpa [h] using this
    · have := ih (pre ++ [x]) best bestv (by simp; omega) (by rw [List.getElem?_append_left hb]; exact hv)
        (fun j v hj => by
          by_cases hjl : j < pre.length
          · exact hbest j v (hinit j v hjl hj)
          · rw [hlast j v hjl hj]; simpa using h)
        (fun j v hjb hj => hfirst j v hjb (hinit j v (by omega) hj))
      simpa [h] using this

/-- `firstMin` answers the position of the first least value. -/
theorem firstMin_spec {l : List Nat} (h : l ≠ []) :
    ∃ w, l[firstMin l]? = some w ∧ (∀ (j v : Nat), l[j]? = some v → w ≤ v) ∧
      ∀ (j v : Nat), j < firstMin l → l[j]? = some v → w < v := by
  obtain ⟨v, vs, rfl⟩ := List.exists_cons_of_ne_nil h
  have := scanBest_spec (better := fun x y => decide (x < y)) (by simp; omega) (by simp; omega) vs [v] 0 v (by simp) rfl
    (fun j w hj => by rw [List.getElem?_singleton] at hj; split at hj <;> simp_all) (fun j w hj _ => by omega)
  simpa [firstMin] using this

/-- `firstMax` answers the position of the first greatest value. -/
theorem firstMax_spec {l : List Nat} (h : l ≠ []) :
    ∃ w, l[firstMax l]? = some w ∧ (∀ (j v : Nat), l[j]? = some v → v ≤ w) ∧
      ∀ (j v : Nat), j < firstMax l → l[j]? = some v → v < w := by
  obtain ⟨v, vs, rfl⟩ := List.exists_cons_of_ne_nil h
  have := scanBest_spec (better := fun x y => decide (y < x)) (by simp; omega) (by simp; omega) vs [v] 0 v (by simp) rfl
    (fun j w hj => by rw [List.getElem?_singleton] at hj; split at hj <;> simp_all) (fun j w hj _ => by omega)
  simpa [firstMax] using this

theorem firstMin_lt {l : List Nat} (h : l ≠ []) : firstMin l < l.length := by
  obtain ⟨w, hw, -⟩ := firstMin_spec h
  exact (List.getElem?_eq_some_iff.1 hw).1

theorem firstMax_lt {l : List Nat} (h : l ≠ []) : firstMax l < l.length := by
  obtain ⟨w, hw, -⟩ := firstMax_spec h
  exact (List.getElem?_eq_some_iff.1 hw).1

end Sys2Proof.Machine
end

