-- ==== Sys2Proof/Laws/Quantizer.lean ====
section
/-! SUPPORT. What the ranking and the slots are, the shape of a cell's image, and where its writes go. -/

namespace Sys2Proof.Machine

theorem mem_candidates {S : List Color} {bg k : Color} : k ∈ candidates S bg ↔ k ≠ bg ∧ k ∈ S := by
  simp [candidates, List.count_pos_iff]

theorem nodup_candidates (S : List Color) (bg : Color) : (candidates S bg).Nodup :=
  nodup_allColors.filter _

/-- `ranksBefore` as R102 writes it. -/
theorem ranksBefore_iff {S : List Color} {k1 k2 : Color} :
    ranksBefore S k1 k2 = true ↔
      S.count k2 < S.count k1 ∨ (S.count k1 = S.count k2 ∧ S.idxOf k1 < S.idxOf k2) := by
  simp [ranksBefore]

theorem ranksBefore_trans {S : List Color} {a b c : Color} (h1 : ranksBefore S a b = true)
    (h2 : ranksBefore S b c = true) : ranksBefore S a c = true := by
  rw [ranksBefore_iff] at *; omega

/-- Of two different colours present, one ranks before the other. -/
theorem ranksBefore_total {S : List Color} {a b : Color} (ha : a ∈ S) (hab : a ≠ b) :
    ranksBefore S a b = true ∨ ranksBefore S b a = true := by
  have : S.idxOf a ≠ S.idxOf b := fun h => hab (List.idxOf_inj ha |>.1 h)
  simp only [ranksBefore_iff]; omega

theorem insertRanked_perm (S : List Color) (k : Color) (l : List Color) : (insertRanked S k l).Perm (k :: l) := by
  induction l with
  | nil => exact .refl _
  | cons x l ih =>
    simp only [insertRanked]
    split
    · exact .refl _
    · exact (ih.cons x).trans (.swap k x l)

theorem insertRanked_pairwise {S : List Color} {k : Color} {l : List Color} (hk : k ∈ S) (hl : ∀ x ∈ l, x ∈ S)
    (hn : k ∉ l) (h : l.Pairwise fun a b => ranksBefore S a b = true) :
    (insertRanked S k l).Pairwise fun a b => ranksBefore S a b = true := by
  induction l with
  | nil => simp [insertRanked]
  | cons x l ih =>
    obtain ⟨hx, hp⟩ := List.pairwise_cons.1 h
    simp only [insertRanked]
    split
    · rename_i hkx
      refine List.pairwise_cons.2 ⟨fun y hy => ?_, h⟩
      rcases List.mem_cons.1 hy with rfl | hy
      · exact hkx
      · exact ranksBefore_trans hkx (hx y hy)
    · rename_i hkx
      refine List.pairwise_cons.2 ⟨fun y hy => ?_, ih (fun y hy => hl y (by simp [hy])) (by simp_all) hp⟩
      rcases List.mem_cons.1 ((insertRanked_perm S k l).mem_iff.1 hy) with rfl | hy
      · exact (ranksBefore_total hk (by simp_all)).resolve_left hkx
      · exact hx y hy

theorem foldr_insertRanked_perm (S : List Color) (l : List Color) : (l.foldr (insertRanked S) []).Perm l := by
  induction l with
  | nil => exact .refl _
  | cons x l ih => exact (insertRanked_perm S x _).trans (ih.cons x)

/-- The ranked colours are the candidates. -/
theorem rankedColors_perm (S : List Color) (bg : Color) : (rankedColors S bg).Perm (candidates S bg) :=
  foldr_insertRanked_perm S _

theorem mem_rankedColors {S : List Color} {bg k : Color} : k ∈ rankedColors S bg ↔ k ≠ bg ∧ k ∈ S :=
  (rankedColors_perm S bg).mem_iff.trans mem_candidates

theorem nodup_rankedColors (S : List Color) (bg : Color) : (rankedColors S bg).Nodup :=
  (rankedColors_perm S bg).nodup_iff.2 (nodup_candidates S bg)

/-- The ranked colours stand in the order of R102. -/
theorem rankedColors_pairwise (S : List Color) (bg : Color) :
    (rankedColors S bg).Pairwise fun a b => ranksBefore S a b = true := by
  have key : ∀ l : List Color, (∀ x ∈ l, x ∈ S) → l.Nodup →
      (l.foldr (insertRanked S) []).Pairwise fun a b => ranksBefore S a b = true := by
    intro l
    induction l with
    | nil => simp
    | cons x l ih =>
      intro hl hn
      have hp := foldr_insertRanked_perm S l
      exact insertRanked_pairwise (hl x (by simp)) (fun y hy => hl y (by simp [hp.mem_iff.1 hy]))
        (fun hx => (List.nodup_cons.1 hn).1 (hp.mem_iff.1 hx))
        (ih (fun y hy => hl y (by simp [hy])) (List.nodup_cons.1 hn).2)
  exact key _ (fun x hx => (mem_candidates.1 hx).2) (nodup_candidates S bg)

theorem nodup_retained (S : List Color) (bg : Color) : (retained S bg).Nodup := by
  refine List.nodup_cons.2 ⟨fun h => ?_, ((List.take_sublist 3 _).nodup (nodup_rankedColors S bg))⟩
  exact (mem_rankedColors.1 (List.mem_of_mem_take h)).1 rfl

theorem length_retained_le (S : List Color) (bg : Color) : (retained S bg).length ≤ 4 := by
  simp [retained]

theorem retained_ne_nil (S : List Color) (bg : Color) : retained S bg ≠ [] := by simp [retained]

@[simp] theorem length_quantCell_bm (pal : Palette) (S : List Color) (bg : Color) :
    (quantCell pal S bg).bm.length = 8 := by simp [quantCell]

/-- Every code is a position among the retained colours. -/
theorem codeOf_lt (pal : Palette) {kept : List Color} (hne : kept ≠ []) (hle : kept.length ≤ 4) (k : Color) :
    (codeOf pal kept k).toNat < kept.length := by
  simp only [codeOf]
  split
  · rename_i h
    have := List.idxOf_lt_length_iff.2 h
    simp only [BitVec.toNat_ofNat]; omega
  · have := firstMin_lt (l := kept.map fun j => distance (pal.entry k) (pal.entry j)) (by simpa using hne)
    simp only [List.length_map] at this
    simp only [BitVec.toNat_ofNat]; omega

/-- The colour byte of an image has bits 7:4 zero. -/
theorem quantCell_col_lt (pal : Palette) (S : List Color) (bg : Color) : (quantCell pal S bg).col.toNat < 16 := by
  simp only [quantCell, BitVec.toNat_setWidth]
  have := (slotColor (retained S bg) bg 3).isLt
  omega

/-- Quantizing a cell of the grid answers its image, or the fault of one of its samples. -/
theorem cellImage_cases (s : State) (bg : Color) (c : Nat) :
    (s.validPixels (sampleAddrs c) ∧ cellImage s bg c = .ok (quantCell s.pal (s.samples c) bg)) ∨
      ∃ a ∈ sampleAddrs c, 15 < (s.pixByte a).toNat ∧ cellImage s bg c = .error (pixelTrap (s.pixByte a) a) := by
  rcases readColors_cases s (sampleAddrs c) with ⟨h, e⟩ | ⟨a, ha, h, e⟩
  · exact .inl ⟨h, by simp only [cellImage, e, State.samples]⟩
  · exact .inr ⟨a, ha, h, by simp only [cellImage, e]⟩

/-- Everything QCELL can do. -/
theorem quantizeCell_cases (s : State) (c : Nat) :
    (Config.cellCount ≤ c ∧ quantizeCell s c = .error (illegalTrap s)) ∨
    (c < Config.cellCount ∧ s.shapeOk = false ∧ quantizeCell s c = .error (shapeTrap s)) ∨
    (c < Config.cellCount ∧ s.shapeOk = true ∧ s.bgValid = false ∧ quantizeCell s c = .error (bgUnsetTrap s)) ∨
    (c < Config.cellCount ∧ s.shapeOk = true ∧ s.bgValid = true ∧ ∃ a ∈ sampleAddrs c, 15 < (s.pixByte a).toNat ∧
      quantizeCell s c = .error (pixelTrap (s.pixByte a) a)) ∨
    (c < Config.cellCount ∧ s.shapeOk = true ∧ s.bgValid = true ∧ s.validPixels (sampleAddrs c) ∧
      quantizeCell s c = .ok (s.writeCell c (quantCell s.pal (s.samples c) s.bg))) := by
  by_cases hc : Config.cellCount ≤ c
  · exact .inl ⟨hc, by simp [quantizeCell, hc]⟩
  cases hs : s.shapeOk
  · exact .inr (.inl ⟨by omega, rfl, by simp [quantizeCell, hc, hs]⟩)
  cases hb : s.bgValid
  · exact .inr (.inr (.inl ⟨by omega, rfl, rfl, by simp [quantizeCell, hc, hs, hb]⟩))
  rcases cellImage_cases s s.bg c with ⟨hv, e⟩ | ⟨a, ha, hv, e⟩
  · exact .inr (.inr (.inr (.inr ⟨by omega, rfl, rfl, hv, by simp [quantizeCell, hc, hs, hb, e]⟩)))
  · exact .inr (.inr (.inr (.inl ⟨by omega, rfl, rfl, a, ha, hv, by simp [quantizeCell, hc, hs, hb, e]⟩)))

/-- The bitmap bytes after the writes of one cell. -/
theorem bmpByte_writeCell (s : State) (c : Nat) (q : CellImage) (o : Nat) :
    (s.writeCell c q).bmpByte o =
      if c * 8 ≤ o ∧ o < c * 8 + q.bm.length then q.bm.getD (o - c * 8) 0#8 else s.bmpByte o := by
  simp only [State.bmpByte, State.writeCell, bmpOffset, Nat.add_zero, Memory.find_putFrom]
  by_cases h : c * 8 ≤ o ∧ o < c * 8 + q.bm.length
  · rw [if_pos h, if_pos h, List.getD_eq_getElem?_getD, List.getElem?_eq_getElem (by omega)]; rfl
  · rw [if_neg h, if_neg h]

/-- The screen bytes after the writes of one cell. -/
theorem scrByte_writeCell (s : State) (c : Nat) (q : CellImage) (d : Nat) :
    (s.writeCell c q).scrByte d = if d = c then q.scr else s.scrByte d := by
  simp only [State.scrByte, State.writeCell, Memory.find_put]
  split <;> simp

/-- The colour bytes after the writes of one cell. -/
theorem colByte_writeCell (s : State) (c : Nat) (q : CellImage) (d : Nat) :
    (s.writeCell c q).colByte d = if d = c then q.col else s.colByte d := by
  simp only [State.colByte, State.writeCell, Memory.find_put]
  split <;> simp

/-- After the writes of one cell, its bytes hold its image. -/
theorem holdsImage_writeCell (s : State) (c : Nat) {q : CellImage} (hq : q.bm.length = 8) :
    (s.writeCell c q).holdsImage c q := by
  refine ⟨fun r hr => ?_, by simp [scrByte_writeCell], by simp [colByte_writeCell]⟩
  rw [bmpByte_writeCell, hq, bmpOffset, if_pos (by omega), Nat.add_sub_cancel_left]

/-- The writes of one cell keep the memories in canonical form. -/
theorem memoriesOk_writeCell {s : State} (h : s.memoriesOk) {c : Nat} (hc : c < Config.cellCount) {q : CellImage}
    (hq : q.bm.length = 8) : (s.writeCell c q).memoriesOk := by
  simp only [Config.cellCount] at hc
  refine ⟨h.1, Memory.putFrom_wf h.2.1 _ ?_, Memory.put_wf h.2.2.1 hc _, Memory.put_wf h.2.2.2 hc _⟩
  simp only [bmpOffset, Config.bmpSize, hq]; omega

/-- The writes of one cell keep bits 7:4 of the colour bytes zero. -/
theorem colorBytesOk_writeCell {s : State} (h : s.colorBytesOk) (c : Nat) {q : CellImage} (hq : q.col.toNat < 16) :
    (s.writeCell c q).colorBytesOk := fun x hx =>
  (Memory.mem_put hx).elim (fun e => e ▸ hq) (h x)

end Sys2Proof.Machine
end

