-- ==== Sys2Proof/Laws/Packer.lean ====
section
/-! SUPPORT. Everything BGSEL and CONVERT can do, and where the cell loop writes. -/

namespace Sys2Proof.Machine

/-- The mode of a list of colours: no colour is more frequent, and every lower one is less frequent. -/
theorem modeColor_spec (g : List Color) (k : Color) :
    g.count k ≤ g.count (modeColor g) ∧ (k < modeColor g → g.count k < g.count (modeColor g)) := by
  have hne : (allColors.map fun k => g.count k) ≠ [] := by simp [allColors]
  obtain ⟨w, hw, h1, h2⟩ := firstMax_spec hne
  have hlt := firstMax_lt hne
  simp only [List.length_map, length_allColors] at hlt
  have hn : (modeColor g).toNat = firstMax (allColors.map fun k => g.count k) := by
    simp only [modeColor, BitVec.toNat_ofNat]; omega
  have hall : ∀ j : Color, (allColors.map fun k => g.count k)[j.toNat]? = some (g.count j) := fun j => by
    rw [List.getElem?_map, getElem?_allColors j.isLt]; simp
  have hk := hall (modeColor g)
  rw [hn, hw] at hk
  obtain rfl := Option.some.inj hk
  exact ⟨h1 _ _ (hall k), fun hj => h2 _ _ (by rw [← hn]; exact BitVec.lt_def.1 hj) (hall k)⟩

/-- Background selection answers the mode of the whole grid, or the fault of one invalid pixel. -/
theorem bgSelect_cases (s : State) :
    (s.validPixels gridAddrs ∧ bgSelect s = .ok (modeColor (s.pixColors gridAddrs))) ∨
      ∃ a < Config.pixelCount, 15 < (s.pixByte a).toNat ∧ bgSelect s = .error (pixelTrap (s.pixByte a) a) := by
  rcases readColors_cases s gridAddrs with ⟨h, e⟩ | ⟨a, ha, h, e⟩
  · exact .inl ⟨h, by simp only [bgSelect, e]⟩
  · exact .inr ⟨a, mem_gridAddrs.1 ha, h, by simp only [bgSelect, e]⟩

/-- Everything BGSEL can do. -/
theorem selectBackground_cases (s : State) :
    (s.shapeOk = false ∧ selectBackground s = .error (shapeTrap s)) ∨
    (s.shapeOk = true ∧ (∃ a < Config.pixelCount, 15 < (s.pixByte a).toNat ∧
      selectBackground s = .error (pixelTrap (s.pixByte a) a))) ∨
    (s.shapeOk = true ∧ s.validPixels gridAddrs ∧
      selectBackground s = .ok (s.setBackground (modeColor (s.pixColors gridAddrs)))) := by
  cases hs : s.shapeOk
  · exact .inl ⟨rfl, by simp [selectBackground, hs]⟩
  rcases bgSelect_cases s with ⟨h, e⟩ | ⟨a, ha, h, e⟩
  · exact .inr (.inr ⟨rfl, h, by simp [selectBackground, hs, e]⟩)
  · exact .inr (.inl ⟨rfl, a, ha, h, by simp [selectBackground, hs, e]⟩)

/-- Where every listed cell's samples are valid, the images are those of `QuantCell`. -/
theorem cellImages_of_valid {s : State} (bg : Color) {cs : List Nat} (h : ∀ c ∈ cs, s.validPixels (sampleAddrs c)) :
    cellImages s bg cs = .ok (cs.map fun c => quantCell s.pal (s.samples c) bg) := by
  induction cs with
  | nil => rfl
  | cons c cs ih =>
    have hc : readColors s (sampleAddrs c) = .ok (s.samples c) :=
      readColors_eq_ok.2 ⟨h c List.mem_cons_self, rfl⟩
    simp only [cellImages, cellImage, hc, ih fun d hd => h d (List.mem_cons_of_mem _ hd), List.map_cons]

/-- The images CONVERT writes, in cell order, against the background `bg`. -/
def gridImages (s : State) (bg : Color) : List CellImage :=
  cellIndices.map fun c => quantCell s.pal (s.samples c) bg

/-- Everything CONVERT can do: its second phase cannot fault. -/
theorem convertGrid_cases (s : State) :
    (s.shapeOk = false ∧ convertGrid s = .error (shapeTrap s)) ∨
    (s.shapeOk = true ∧ (∃ a < Config.pixelCount, 15 < (s.pixByte a).toNat ∧
      convertGrid s = .error (pixelTrap (s.pixByte a) a))) ∨
    (s.shapeOk = true ∧ s.validPixels gridAddrs ∧
      convertGrid s = .ok ((s.writeCells 0 (gridImages s (modeColor (s.pixColors gridAddrs)))).setBackground
        (modeColor (s.pixColors gridAddrs)))) := by
  cases hs : s.shapeOk
  · exact .inl ⟨rfl, by simp [convertGrid, hs]⟩
  rcases bgSelect_cases s with ⟨h, e⟩ | ⟨a, ha, h, e⟩
  · refine .inr (.inr ⟨rfl, h, ?_⟩)
    have := cellImages_of_valid (modeColor (s.pixColors gridAddrs)) (cs := cellIndices)
      fun c hc => validPixels_samples h (mem_cellIndices.1 hc)
    simp only [convertGrid, hs, Bool.not_true, Bool.false_eq_true, if_false, e, this, gridImages]
  · exact .inr (.inl ⟨rfl, a, ha, h, by simp [convertGrid, hs, e]⟩)

/-- The cell loop writes the three buffers and nothing else. -/
theorem writeCells_eq (s : State) (c : Nat) (qs : List CellImage) :
    s.writeCells c qs =
      { s with
        bmp := (s.writeCells c qs).bmp, scr := (s.writeCells c qs).scr, col := (s.writeCells c qs).col } := by
  induction qs generalizing s c with
  | nil => rfl
  | cons q qs ih => rw [State.writeCells, ih]; rfl

/-- The bitmap bytes after the cell loop, from cell `c` on, with 8 bytes an image. -/
theorem bmpByte_writeCells (s : State) (c : Nat) (qs : List CellImage) (hq : ∀ q ∈ qs, q.bm.length = 8) (o : Nat) :
    (s.writeCells c qs).bmpByte o =
      if h : c * 8 ≤ o ∧ o / 8 - c < qs.length then (qs[o / 8 - c]'h.2).bm.getD (o % 8) 0#8 else s.bmpByte o := by
  induction qs generalizing s c with
  | nil => simp [State.writeCells]
  | cons q qs ih =>
    have h8 : q.bm.length = 8 := hq q List.mem_cons_self
    rw [State.writeCells, ih _ _ fun q h => hq q (List.mem_cons_of_mem _ h), bmpByte_writeCell, h8]
    by_cases h1 : (c + 1) * 8 ≤ o ∧ o / 8 - (c + 1) < qs.length
    · have : o / 8 - c = (o / 8 - (c + 1)) + 1 := by omega
      rw [dif_pos h1, dif_pos ⟨by omega, by rw [List.length_cons]; omega⟩]
      simp only [this, List.getElem_cons_succ]
    · rw [dif_neg h1]
      by_cases h2 : c * 8 ≤ o ∧ o < c * 8 + 8
      · have : o / 8 - c = 0 := by omega
        rw [if_pos h2, dif_pos ⟨h2.1, by rw [List.length_cons]; omega⟩]
        simp only [this, List.getElem_cons_zero]
        congr 1; omega
      · rw [if_neg h2, dif_neg (by rw [List.length_cons]; omega)]

/-- The screen bytes after the cell loop. -/
theorem scrByte_writeCells (s : State) (c : Nat) (qs : List CellImage) (d : Nat) :
    (s.writeCells c qs).scrByte d =
      if h : c ≤ d ∧ d - c < qs.length then (qs[d - c]'h.2).scr else s.scrByte d := by
  induction qs generalizing s c with
  | nil => simp [State.writeCells]
  | cons q qs ih =>
    rw [State.writeCells, ih, scrByte_writeCell]
    by_cases h1 : c + 1 ≤ d ∧ d - (c + 1) < qs.length
    · have : d - c = (d - (c + 1)) + 1 := by omega
      rw [dif_pos h1, dif_pos ⟨by omega, by rw [List.length_cons]; omega⟩]
      simp only [this, List.getElem_cons_succ]
    · rw [dif_neg h1]
      by_cases h2 : d = c
      · subst h2; simp
      · rw [if_neg h2, dif_neg (by rw [List.length_cons]; omega)]

/-- The colour bytes after the cell loop. -/
theorem colByte_writeCells (s : State) (c : Nat) (qs : List CellImage) (d : Nat) :
    (s.writeCells c qs).colByte d =
      if h : c ≤ d ∧ d - c < qs.length then (qs[d - c]'h.2).col else s.colByte d := by
  induction qs generalizing s c with
  | nil => simp [State.writeCells]
  | cons q qs ih =>
    rw [State.writeCells, ih, colByte_writeCell]
    by_cases h1 : c + 1 ≤ d ∧ d - (c + 1) < qs.length
    · have : d - c = (d - (c + 1)) + 1 := by omega
      rw [dif_pos h1, dif_pos ⟨by omega, by rw [List.length_cons]; omega⟩]
      simp only [this, List.getElem_cons_succ]
    · rw [dif_neg h1]
      by_cases h2 : d = c
      · subst h2; simp
      · rw [if_neg h2, dif_neg (by rw [List.length_cons]; omega)]

/-- After the cell loop from cell 0 on, every cell's bytes hold its image. -/
theorem holdsImage_writeCells (s : State) {qs : List CellImage} (hq : ∀ q ∈ qs, q.bm.length = 8) {c : Nat}
    (hc : c < qs.length) : (s.writeCells 0 qs).holdsImage c qs[c] := by
  refine ⟨fun r hr => ?_, ?_, ?_⟩
  · have h1 : bmpOffset c r / 8 = c := by simp only [bmpOffset]; omega
    have h2 : bmpOffset c r % 8 = r := by simp only [bmpOffset]; omega
    rw [bmpByte_writeCells _ _ _ hq, dif_pos ⟨by omega, by rw [h1]; exact hc⟩]
    simp only [h1, h2, Nat.sub_zero]
  · rw [scrByte_writeCells, dif_pos ⟨by omega, hc⟩]; rfl
  · rw [colByte_writeCells, dif_pos ⟨by omega, hc⟩]; rfl

@[simp] theorem length_gridImages (s : State) (bg : Color) : (gridImages s bg).length = Config.cellCount := by
  simp [gridImages, cellIndices]

theorem getElem_gridImages (s : State) (bg : Color) (c : Nat) (h : c < (gridImages s bg).length) :
    (gridImages s bg)[c] = quantCell s.pal (s.samples c) bg := by
  simp [gridImages, cellIndices]

theorem gridImages_bm_length (s : State) (bg : Color) : ∀ q ∈ gridImages s bg, q.bm.length = 8 := by
  simp [gridImages]

theorem gridImages_bytes (s : State) (bg : Color) :
    ∀ q ∈ gridImages s bg, q.bm.length = 8 ∧ q.col.toNat < 16 := by
  intro q hq
  obtain ⟨c, -, rfl⟩ := List.mem_map.1 hq
  exact ⟨length_quantCell_bm _ _ _, quantCell_col_lt _ _ _⟩

/-- The cell loop keeps the memories in canonical form. -/
theorem memoriesOk_writeCells {s : State} (h : s.memoriesOk) {c : Nat} {qs : List CellImage}
    (hc : c + qs.length ≤ Config.cellCount) (hq : ∀ q ∈ qs, q.bm.length = 8) : (s.writeCells c qs).memoriesOk := by
  induction qs generalizing s c with
  | nil => exact h
  | cons q qs ih =>
    rw [List.length_cons] at hc
    exact ih (memoriesOk_writeCell h (by omega) (hq q List.mem_cons_self)) (by omega)
      fun q h => hq q (List.mem_cons_of_mem _ h)

/-- The cell loop keeps bits 7:4 of the colour bytes zero. -/
theorem colorBytesOk_writeCells {s : State} (h : s.colorBytesOk) {c : Nat} {qs : List CellImage}
    (hq : ∀ q ∈ qs, q.col.toNat < 16) : (s.writeCells c qs).colorBytesOk := by
  induction qs generalizing s c with
  | nil => exact h
  | cons q qs ih =>
    exact ih (colorBytesOk_writeCell h c (hq q List.mem_cons_self)) fun q h => hq q (List.mem_cons_of_mem _ h)

end Sys2Proof.Machine
end

