-- ==== Sys2Proof/Laws/PerInstr.lean ====
section
/-! SUPPORT. Per-command facts about the encoding: the fields every command word has (30_encoding.md R70, R71). -/

namespace Sys2Proof

/-- The `op` of a command (30_encoding.md R71). -/
def Instr.opNumber : Instr → BitVec 4
  | .nop => 0#4
  | .matchRgb _ _ _ => 1#4
  | .setbg _ => 2#4
  | .bgsel => 3#4
  | .qcell _ => 4#4
  | .convert => 5#4

namespace Laws.EncodedFields

/-- The word of a command carries its `op`, and its `z` field is 0. -/
def Statement (i : Instr) : Prop := opField (encode i) = i.opNumber ∧ zField (encode i) = 0#4

theorem nop : Statement .nop := by simp [Statement, Instr.opNumber, encode, opField, zField]

theorem matchRgb (r g b : Byte) : Statement (.matchRgb r g b) := by
  have hr := r.isLt; have hg := g.isLt; have hb := b.isLt
  constructor <;> apply BitVec.eq_of_toNat_eq <;>
    simp only [toNat_opField, toNat_zField, toNat_encode_matchRgb, Instr.opNumber, BitVec.toNat_ofNat] <;> omega

theorem setbg (k : Color) : Statement (.setbg k) := by
  have hk := k.isLt
  constructor <;> apply BitVec.eq_of_toNat_eq <;>
    simp only [toNat_opField, toNat_zField, toNat_encode_setbg, Instr.opNumber, BitVec.toNat_ofNat] <;> omega

theorem bgsel : Statement .bgsel := by simp [Statement, Instr.opNumber, encode, opField, zField]

theorem qcell (c : BitVec 10) : Statement (.qcell c) := by
  have hc := c.isLt
  constructor <;> apply BitVec.eq_of_toNat_eq <;>
    simp only [toNat_opField, toNat_zField, toNat_encode_qcell, Instr.opNumber, BitVec.toNat_ofNat] <;> omega

theorem convert : Statement .convert := by simp [Statement, Instr.opNumber, encode, opField, zField]

end Laws.EncodedFields

end Sys2Proof
end

