-- ==== Sys2Proof/Laws/Step.lean ====
section
/-! SUPPORT. Everything a command, a completion and a step can do, said once. -/

namespace Sys2Proof.Machine

/-- What a command that ends without a fault leaves as it was, but for its own results. -/
structure CommandWrites (s u : State) : Prop where
  pal : u.pal = s.pal
  pix : u.pix = s.pix
  pend : u.pend = s.pend
  busy : u.busy = s.busy
  done : u.done = s.done
  fault : u.fault = s.fault
  ovr : u.ovr = s.ovr
  ie : u.ie = s.ie
  err : u.err = s.err
  errInfo : u.errInfo = s.errInfo
  gridW : u.gridW = s.gridW
  gridH : u.gridH = s.gridH
  rst : u.rst = s.rst
  agenda : u.agenda = s.agenda
  replies : u.replies = s.replies
  busyLeft : u.busyLeft = s.busyLeft
  draws : u.draws = s.draws
  bufDraw : u.bufDraw = s.bufDraw
  background : u.bgValid = false → u.bg = s.bg ∧ s.bgValid = false
  memories : s.memoriesOk → u.memoriesOk
  colorBytes : s.colorBytesOk → u.colorBytesOk

theorem CommandWrites.refl (s : State) : CommandWrites s s := by constructor <;> simp

theorem CommandWrites.setIdx (s : State) (k : Color) : CommandWrites s (s.setIdx k) := by
  constructor
  case memories => exact id
  all_goals simp

theorem CommandWrites.setBackground (s : State) (k : Color) : CommandWrites s (s.setBackground k) := by
  constructor
  case memories => exact id
  all_goals simp

theorem CommandWrites.writeCell (s : State) {c : Nat} (hc : c < Config.cellCount) {q : CellImage}
    (hq : q.bm.length = 8) (hcol : q.col.toNat < 16) : CommandWrites s (s.writeCell c q) := by
  constructor
  case memories => exact fun h => memoriesOk_writeCell h hc hq
  case colorBytes => exact fun h => colorBytesOk_writeCell h c hcol
  all_goals simp

theorem CommandWrites.trans {s u v : State} (h : CommandWrites s u) (k : CommandWrites u v) : CommandWrites s v where
  pal := k.pal.trans h.pal
  pix := k.pix.trans h.pix
  pend := k.pend.trans h.pend
  busy := k.busy.trans h.busy
  done := k.done.trans h.done
  fault := k.fault.trans h.fault
  ovr := k.ovr.trans h.ovr
  ie := k.ie.trans h.ie
  err := k.err.trans h.err
  errInfo := k.errInfo.trans h.errInfo
  gridW := k.gridW.trans h.gridW
  gridH := k.gridH.trans h.gridH
  rst := k.rst.trans h.rst
  agenda := k.agenda.trans h.agenda
  replies := k.replies.trans h.replies
  busyLeft := k.busyLeft.trans h.busyLeft
  draws := k.draws.trans h.draws
  bufDraw := k.bufDraw.trans h.bufDraw
  background hv := by
    obtain ⟨k1, k2⟩ := k.background hv
    obtain ⟨h1, h2⟩ := h.background k2
    exact ⟨k1.trans h1, h2⟩
  memories := k.memories ∘ h.memories
  colorBytes := k.colorBytes ∘ h.colorBytes

theorem CommandWrites.writeCells (s : State) {c : Nat} {qs : List CellImage}
    (hc : c + qs.length ≤ Config.cellCount) (hq : ∀ q ∈ qs, q.bm.length = 8 ∧ q.col.toNat < 16) :
    CommandWrites s (s.writeCells c qs) := by
  induction qs generalizing s c with
  | nil => exact .refl s
  | cons q qs ih =>
    rw [List.length_cons] at hc
    have h := hq q List.mem_cons_self
    exact (CommandWrites.writeCell s (by omega) h.1 h.2).trans
      (ih _ (by omega) fun q h => hq q (List.mem_cons_of_mem _ h))

/-- Which faults a command itself can raise. -/
inductive CommandTrap (i : Instr) (s : State) : Trap → Prop where
  | range (c : BitVec 10) : i = .qcell c → Config.cellCount ≤ c.toNat → CommandTrap i s (illegalTrap s)
  | shape : s.shapeOk = false → CommandTrap i s (shapeTrap s)
  | background (c : BitVec 10) : i = .qcell c → s.bgValid = false → CommandTrap i s (bgUnsetTrap s)
  | pixel (a : Nat) : a < Config.pixelCount → 15 < (s.pixByte a).toNat → CommandTrap i s (pixelTrap (s.pixByte a) a)

/-- Everything a command can do: its writes and the flags of completion, or the entry of one of its faults. -/
theorem exec_cases (i : Instr) (s : State) :
    (∃ u, CommandWrites s u ∧ exec i s = .next u.markDone) ∨
      ∃ e, CommandTrap i s e ∧ exec i s = .next (s.faultEntry e) := by
  cases i with
  | nop => exact .inl ⟨s, .refl s, rfl⟩
  | matchRgb r g b => exact .inl ⟨_, .setIdx s _, rfl⟩
  | setbg k => exact .inl ⟨_, .setBackground s k, rfl⟩
  | bgsel =>
    rw [show exec .bgsel s = .next (finish s (selectBackground s)) from rfl]
    rcases selectBackground_cases s with ⟨hs, e⟩ | ⟨-, a, ha, hv, e⟩ | ⟨-, -, e⟩ <;> rw [e]
    · exact .inr ⟨_, .shape hs, rfl⟩
    · exact .inr ⟨_, .pixel a ha hv, rfl⟩
    · exact .inl ⟨_, .setBackground s _, rfl⟩
  | qcell c =>
    rw [show exec (.qcell c) s = .next (finish s (quantizeCell s c.toNat)) from rfl]
    rcases quantizeCell_cases s c.toNat with ⟨hc, e⟩ | ⟨-, hs, e⟩ | ⟨-, -, hb, e⟩ | ⟨hc, -, -, a, ha, hv, e⟩ |
      ⟨hc, -, -, -, e⟩ <;> rw [e]
    · exact .inr ⟨_, .range c rfl hc, rfl⟩
    · exact .inr ⟨_, .shape hs, rfl⟩
    · exact .inr ⟨_, .background c rfl hb, rfl⟩
    · exact .inr ⟨_, .pixel a (mem_gridAddrs.1 (sampleAddrs_subset_grid hc ha)) hv, rfl⟩
    · exact .inl ⟨_, .writeCell s hc (length_quantCell_bm _ _ _) (quantCell_col_lt _ _ _), rfl⟩
  | convert =>
    rw [show exec .convert s = .next (finish s (convertGrid s)) from rfl]
    rcases convertGrid_cases s with ⟨hs, e⟩ | ⟨-, a, ha, hv, e⟩ | ⟨-, -, e⟩ <;> rw [e]
    · exact .inr ⟨_, .shape hs, rfl⟩
    · exact .inr ⟨_, .pixel a ha hv, rfl⟩
    · exact .inl ⟨_, (CommandWrites.writeCells s (by simp) (gridImages_bytes s _)).trans (.setBackground _ _), rfl⟩

/-- Everything a completion can do. -/
theorem complete_cases (s : State) :
    (∃ why, decodeWord s.pend = .error why ∧ complete s = .next (s.faultEntry (illegalTrap s))) ∨
      ∃ i, decodeWord s.pend = .ok i ∧ complete s = exec i s := by
  cases h : decodeWord s.pend with
  | error why => exact .inl ⟨why, rfl, by simp only [complete, h]⟩
  | ok i => exact .inr ⟨i, rfl, by simp only [complete, h]⟩

/-- Everything a step can do. -/
theorem step_cases (s : State) :
    (s.coreMoves = true ∧ step s = complete s) ∨
    (s.coreMoves = false ∧ s.agenda = [] ∧ step s = .next s) ∨
    (∃ e rest, s.coreMoves = false ∧ s.agenda = e :: rest ∧ step s = .next (s.takeEvent e rest)) := by
  simp only [step, advance]
  cases h : s.coreMoves
  · cases ha : s.agenda with
    | nil => exact .inr (.inl ⟨rfl, rfl, by simp⟩)
    | cons e rest => exact .inr (.inr ⟨e, rest, rfl, rfl, by simp⟩)
  · exact .inl ⟨rfl, by simp⟩

end Sys2Proof.Machine
end

