-- ==== Sys2Proof/Laws/Run.lean ====
section
/-! SUPPORT. Runs and results: steps in a row, states with the same results, and what an input leaves of them. -/

namespace Sys2Proof.Machine

theorem Steps.single {s t : State} (h : step s = .next t) : Steps s t := Steps.refl.tail h

theorem Steps.trans {s t u : State} (h : Steps s t) (k : Steps t u) : Steps s u := by
  induction k with
  | refl => exact h
  | tail _ e ih => exact ih.tail e

/-- States that agree in the fields the results are read from have the same results. -/
theorem SameResults.of_fields {s t : State} (bmp : t.bmp = s.bmp) (scr : t.scr = s.scr) (col : t.col = s.col)
    (bufDraw : t.bufDraw = s.bufDraw) (bg : t.bg = s.bg) (bgValid : t.bgValid = s.bgValid) (idx : t.idx = s.idx) :
    SameResults s t :=
  ⟨fun _ => by simp only [State.bmpByte, bmp, bufDraw], fun _ => by simp only [State.scrByte, scr, bufDraw],
    fun _ => by simp only [State.colByte, col, bufDraw], bg, bgValid, idx⟩

theorem SameResults.refl (s : State) : SameResults s s := .of_fields rfl rfl rfl rfl rfl rfl rfl

theorem SameResults.trans {s t u : State} (h : SameResults s t) (k : SameResults t u) : SameResults s u :=
  ⟨fun o => (k.bmp o).trans (h.bmp o), fun c => (k.scr c).trans (h.scr c), fun c => (k.col c).trans (h.col c),
    k.bg.trans h.bg, k.bgValid.trans h.bgValid, k.idx.trans h.idx⟩

/-- The effect of an input leaves the inputs after it. -/
theorem hostStep_agenda (s : State) (e : HostEvent) : (s.hostStep e).agenda = s.agenda := by
  cases e with
  | read a n =>
    obtain ⟨r, d, h⟩ := hostRead_frame s a n
    show (s.hostRead a n).agenda = s.agenda
    rw [h]
  | write a n v =>
    show (s.hostWrite a n v).agenda = s.agenda
    rcases hostWrite_cases s a n v with ⟨-, u, hu, h⟩ | ⟨-, h⟩ <;> rw [h]
    · cases hu <;> rfl
    · rfl
  | rstLine b =>
    show (s.driveRst b).agenda = s.agenda
    rcases driveRst_cases s b with ⟨-, -, h⟩ | ⟨-, h⟩ <;> rw [h]
    rfl

/-- The `STATUS` read that ends a run, with the reset line released. -/
theorem hostStep_statusRead {s : State} (h : s.rst = false) :
    s.hostStep statusRead = s.reply (.readOk s.statusWord) := by
  have hs : sizeFits 0x13004#17 4 = true := by decide
  have hr : regionOf 0x13004#17 = .reg .status := by decide
  simp only [statusRead, State.hostStep, State.hostRead, readAllowed, h, hs, hr, Bool.not_false, Bool.and_self,
    if_true, State.readRegion, State.readReg]

/-- The same read as the next input. -/
theorem takeEvent_statusRead {s : State} (h : s.rst = false) (rest : List HostEvent) :
    s.takeEvent statusRead rest =
      ({ s with agenda := rest, busyLeft := s.busyLeft - 1 } : State).reply (.readOk s.statusWord) :=
  hostStep_statusRead (s := { s with agenda := rest, busyLeft := s.busyLeft - 1 }) h

end Sys2Proof.Machine
end

