-- ==== Sys2Proof/Tests/Slice0.lean ====
section
/-! SUPPORT. The model's own tests, one step each, with the results that spec/95_test_vectors.md gives; and for every
obligation with hypotheses a named witness that meets them together. -/

namespace Sys2Proof.Tests

open Sys2Proof.Machine

/-! ### Fixtures (95_test_vectors.md section 2) -/

/-- A triple from its `RRGGBB` number. -/
def rgb (n : Nat) : Rgb := ⟨BitVec.ofNat 8 (n / 65536), BitVec.ofNat 8 (n / 256), BitVec.ofNat 8 n⟩

/-- The fixture palette F0. -/
def palF0 : Palette :=
  #v[rgb 0x000000, rgb 0x0000AA, rgb 0x00AA00, rgb 0x00AAAA, rgb 0xAA0000, rgb 0xAA00AA, rgb 0xAAAA00, rgb 0xAAAAAA,
    rgb 0x555555, rgb 0x5555FF, rgb 0x55FF55, rgb 0x55FFFF, rgb 0xFF5555, rgb 0xFF55FF, rgb 0xFFFF55, rgb 0xFFFFFF]

/-- The fixture palette F1. -/
def palF1 : Palette :=
  #v[rgb 0x000000, rgb 0xFFFFFF, rgb 0x68372B, rgb 0x70A4B2, rgb 0x6F3D86, rgb 0x588D43, rgb 0x352879, rgb 0xB8C76F,
    rgb 0x6F4F25, rgb 0x433900, rgb 0x9A6759, rgb 0x444444, rgb 0x6C6C6C, rgb 0x9AD284, rgb 0x6C5EB5, rgb 0x959595]

/-- The state after reset, with the fixture palette F0. -/
def start : State := { State.reset with pal := palF0 }

/-- `start` with a command pending. -/
def pending (w : Word) : State := { start with pend := w, busy := true }

/-- The 32 samples of a cell, from the digits of eight rows of four. -/
def cellOf (rows : List (List Nat)) : List Color := rows.flatten.map (BitVec.ofNat 4)

/-- A `PIX` that holds a cell's samples and nothing else. -/
def cellPix (c : Nat) (S : List Color) : Memory := (sampleAddrs c).zip (S.map fun k => k.setWidth 8)

/-- `start` with one cell's samples in `PIX` and a background. -/
def withCell (c : Nat) (S : List Color) (bg : Color) : State :=
  { start with pix := cellPix c S, bg := bg, bgValid := true, pend := encode (.qcell (BitVec.ofNat 10 c)), busy := true }

/-- A `PIX` filled with one byte. -/
def filled (v : Byte) : Memory := (List.range' 0 64000).map fun a => (a, v)

/-- `start` with every pixel at one byte. -/
def fullGrid (v : Byte) : State := { start with pix := filled v, pend := 0x50000000#32, busy := true }

/-- A block in the fault state, as P4 leaves it, with another declared width. -/
def faulted : State :=
  { start with
    fault := true, err := 1#4, errInfo := 0x10000141#32, bg := 5#4, bgValid := true, ie := true, gridW := 319#16
    pix := [(321, 0x10#8)] }

/-- A property of the next state, false where the step stops. -/
def nextHas (o : Host.Outcome State Fault Refusal) (p : State → Bool) : Bool :=
  match o with
  | .next t => p t
  | .fault _ => false
  | .refused _ => false

/-- QV1's samples. -/
def cellQV1 : List Color :=
  cellOf [[2, 2, 2, 2], [2, 2, 2, 2], [2, 2, 2, 2], [2, 2, 2, 2], [2, 2, 2, 2], [5, 5, 5, 5], [5, 5, 5, 5],
    [6, 6, 6, 6]]

/-- QV2's samples. -/
def cellQV2 : List Color :=
  cellOf [[9, 3, 7, 7], [9, 3, 7, 7], [9, 3, 7, 7], [9, 3, 7, 7], [3, 9, 7, 7], [3, 9, 7, 7], [3, 9, 7, 7],
    [3, 9, 7, 7]]

/-- QV5's samples. -/
def cellQV5 : List Color :=
  cellOf [[1, 1, 1, 1], [1, 1, 1, 1], [1, 1, 2, 2], [2, 2, 2, 2], [2, 2, 3, 3], [3, 3, 3, 3], [4, 4, 4, 5],
    [5, 5, 6, 6]]

/-- QV6's samples. -/
def cellQV6 : List Color :=
  cellOf [[5, 5, 5, 5], [5, 5, 5, 5], [5, 5, 6, 6], [6, 6, 6, 6], [6, 6, 6, 3], [3, 3, 3, 3], [3, 3, 3, 4],
    [4, 4, 4, 4]]

theorem find_range (v : Byte) (a n b : Nat) :
    Memory.find ((List.range' a n).map fun x => (x, v)) b = if a ≤ b ∧ b < a + n then some v else none := by
  induction n generalizing a with
  | zero => simp
  | succ n ih =>
    rw [List.range'_succ, List.map_cons, Memory.find, ih]
    by_cases h : b = a
    · simp [h]
    · rw [if_neg h]
      congr 1
      exact propext ⟨fun x => by omega, fun x => by omega⟩

theorem pixByte_fullGrid (v : Byte) {a : Nat} (h : a < 64000) : (fullGrid v).pixByte a = v := by
  show (Memory.find (filled v) a).getD _ = v
  rw [filled, find_range, if_pos (by omega)]
  rfl

theorem writeCells_fault (s : State) (c : Nat) (qs : List CellImage) : (s.writeCells c qs).fault = s.fault := by
  rw [writeCells_eq]

/-! ### WellFormed, decode and encode (30_encoding.md R73 to R75) -/

theorem test_wellformed_refuses_cell_1000 : Instr.wellFormed (.qcell 1000#10) = false := by decide

theorem test_wellformed_accepts_cell_999 : Instr.wellFormed (.qcell 999#10) = true := by decide

theorem test_decode_nop : decodeWord 0b00000000000000000000000000000000#32 = .ok .nop := by decide

theorem test_decode_match :
    decodeWord 0b00010000110010000110010000110010#32 = .ok (.matchRgb 0xC8#8 0x64#8 0x32#8) := by decide

theorem test_decode_setbg : decodeWord 0b00100000000000000000000000001011#32 = .ok (.setbg 11#4) := by decide

theorem test_decode_bgsel : decodeWord 0b00110000000000000000000000000000#32 = .ok .bgsel := by decide

theorem test_decode_qcell : decodeWord 0b01000000000000000000001111100111#32 = .ok (.qcell 999#10) := by decide

theorem test_decode_convert : decodeWord 0b01010000000000000000000000000000#32 = .ok .convert := by decide

theorem test_decode_illegal :
    decodeWord 0x11000000#32 = .error .reservedZ ∧ decodeWord 0x60000000#32 = .error .reservedOp ∧
    decodeWord 0x50000001#32 = .error .nonzeroArg ∧ decodeWord 0x20000010#32 = .error .nonzeroArg ∧
    decodeWord 0x40000400#32 = .error .nonzeroArg ∧ decodeWord 0x400003E8#32 = .error .cellRange := by decide

theorem test_encode :
    encode (.matchRgb 0x55#8 0#8 0#8) = 0x10550000#32 ∧ encode (.setbg 11#4) = 0x2000000B#32 ∧
    encode (.qcell 41#10) = 0x40000029#32 := by decide

theorem test_decode_table_word :
    decodeTableWord 32 0x40000029 = some (.qcell 41#10) ∧ decodeTableWord 32 0x60000000 = none ∧
    decodeBytes [0x0B#8, 0#8, 0#8, 0x20#8] = .ok (.setbg 11#4) := by decide

/-! ### The components (95_test_vectors.md sections 3 to 5) -/

theorem test_matcher_M3 :
    nearest palF0 (rgb 0x808080) = 7#4 ∧ nearest palF0 (rgb 0x550000) = 0#4 ∧ nearest palF0 (rgb 0xC86432) = 12#4 ∧
    nearest palF1 (rgb 0x808080) = 12#4 ∧ nearest palF1 (rgb 0xFF0000) = 2#4 := by decide +kernel

theorem test_distance_M2 : distance (rgb 0x000000) (rgb 0xFFFFFF) = 195075 := by decide

theorem test_quantizer_QV1 :
    (quantCell palF1 cellQV1 0#4).slot = [0#4, 2#4, 5#4, 6#4] ∧
    (quantCell palF1 cellQV1 0#4).bm = [0x55#8, 0x55#8, 0x55#8, 0x55#8, 0x55#8, 0xAA#8, 0xAA#8, 0xFF#8] ∧
    (quantCell palF1 cellQV1 0#4).scr = 0x25#8 ∧ (quantCell palF1 cellQV1 0#4).col = 0x06#8 := by decide +kernel

theorem test_quantizer_QV2 :
    (quantCell palF0 cellQV2 0#4).slot = [0#4, 7#4, 9#4, 3#4] ∧
    (quantCell palF0 cellQV2 0#4).bm = [0xB5#8, 0xB5#8, 0xB5#8, 0xB5#8, 0xE5#8, 0xE5#8, 0xE5#8, 0xE5#8] := by
  decide +kernel

theorem test_quantizer_QV5 :
    (quantCell palF0 cellQV5 0#4).bm = [0x55#8, 0x55#8, 0x5A#8, 0xAA#8, 0xAF#8, 0xFF#8, 0x01#8, 0x5A#8] ∧
    (quantCell palF1 cellQV5 0#4).bm = [0x55#8, 0x55#8, 0x5A#8, 0xAA#8, 0xAF#8, 0xFF#8, 0xAA#8, 0xAA#8] := by
  decide +kernel

/-- QV6a, QV6b: a fallback tie goes to the background, then to the lowest slot. -/
theorem test_quantizer_QV6 :
    (quantCell palF0 cellQV6 0#4).bm = [0x55#8, 0x55#8, 0x5A#8, 0xAA#8, 0xAB#8, 0xFF#8, 0xFC#8, 0x00#8] ∧
    (quantCell palF0 cellQV6 15#4).bm = [0x55#8, 0x55#8, 0x5A#8, 0xAA#8, 0xAB#8, 0xFF#8, 0xFD#8, 0x55#8] := by
  decide +kernel

/-- QV4: no colour but the background. -/
theorem test_quantizer_QV4 :
    (quantCell palF0 (List.replicate 32 11#4) 11#4).nsel = 0 ∧
    (quantCell palF0 (List.replicate 32 11#4) 11#4).scr = 0xBB#8 := by decide +kernel

/-- The tally's tie and its break, in the small (B2, B3). -/
theorem test_mode : modeColor [7#4, 3#4, 7#4, 3#4] = 3#4 ∧ modeColor [7#4, 3#4, 7#4, 7#4] = 7#4 := by decide

theorem test_sample_addresses :
    sampleAddr 0 5 = 322 ∧ sampleAddr 41 0 = 2568 ∧ sampleAddr 999 31 = 63998 := by decide

/-! ### One step of each command -/

/-- R140's worked example. -/
theorem test_step_nop : nextHas (step (pending 0x00000000#32)) (fun t => t.statusWord == 0x00000002#32) = true := by
  decide +kernel

theorem test_step_match :
    nextHas (step (pending 0x10C86432#32)) (fun t => t.idx == 12#4 && t.statusWord == 2#32 && t.bg == 0#4) = true := by
  decide +kernel

/-- M4. -/
theorem test_step_match_illegal :
    nextHas (step (pending 0x11000000#32))
      (fun t => t.idx == 0#4 && t.err == 3#4 && t.errInfo == 0x11000000#32 && t.statusWord == 4#32) = true := by
  decide +kernel

/-- R141's worked example. -/
theorem test_step_setbg :
    nextHas (step (pending 0x2000000B#32)) (fun t => t.bg == 11#4 && t.statusWord == 0x12#32) = true := by
  decide +kernel

/-- B5. -/
theorem test_step_bgsel_invalid_pixel :
    nextHas (step { pending 0x30000000#32 with pix := [(0, 0x10#8)] })
      (fun t => t.err == 1#4 && t.errInfo == 0x10000000#32 && !t.bgValid) = true := by
  decide +kernel

/-- P5 step 8. -/
theorem test_step_bgsel_shape :
    nextHas (step { pending 0x30000000#32 with gridW := 319#16 })
      (fun t => t.err == 2#4 && t.errInfo == 0x00C8013F#32 && t.fault && !t.busy) = true := by
  decide +kernel

/-- P3. -/
theorem test_step_qcell :
    nextHas (step (withCell 41 cellQV1 0#4)) (fun t =>
      t.bmp == [(328, 0x55#8), (329, 0x55#8), (330, 0x55#8), (331, 0x55#8), (332, 0x55#8), (333, 0xAA#8),
        (334, 0xAA#8), (335, 0xFF#8)] &&
      t.scr == [(41, 0x25#8)] && t.col == [(41, 0x06#8)] && t.statusWord == 0x12#32) = true := by
  decide +kernel

/-- QV11 (a), (c). -/
theorem test_step_qcell_faults :
    nextHas (step (pending 0x40000000#32))
      (fun t => t.err == 4#4 && t.errInfo == 0x40000000#32 && t.fault) = true ∧
    nextHas (step { withCell 0 cellQV1 0#4 with pix := (cellPix 0 cellQV1).put 640 0x1F#8 })
      (fun t => t.err == 1#4 && t.errInfo == 0x1F000280#32 && t.bmp == []) = true := by
  decide +kernel

/-- G5 (b). -/
theorem test_step_convert_shape :
    nextHas (step { pending 0x50000000#32 with gridW := 319#16, pix := [(0, 0xFF#8)] })
      (fun t => t.err == 2#4 && t.errInfo == 0x00C8013F#32 && !t.bgValid) = true := by
  decide +kernel

theorem convert_completes {s : State} (h1 : s.shapeOk = true) (h2 : ∀ a < 64000, (s.pixByte a).toNat ≤ 15) :
    ∃ t, exec .convert s = .next t ∧ t.fault = s.fault ∧ t.done = true ∧ t.bg = modeColor (s.pixColors gridAddrs) := by
  rcases convertGrid_cases s with ⟨h, -⟩ | ⟨-, a, ha, hv, -⟩ | ⟨-, -, e⟩
  · rw [h1] at h; cases h
  · have := h2 a ha; omega
  · generalize modeColor (s.pixColors gridAddrs) = k at e
    obtain ⟨qs, e⟩ : ∃ qs, convertGrid s = .ok ((s.writeCells 0 qs).setBackground k) := ⟨_, e⟩
    exact ⟨_, congrArg (fun x => Host.Outcome.next (finish s x)) e, writeCells_fault s 0 qs, rfl, rfl⟩

theorem fullGrid_valid : ∀ a < 64000, ((fullGrid 5#8).pixByte a).toNat ≤ 15 := fun a h => by
  rw [pixByte_fullGrid _ h]; decide

/-- G1: a full grid of one valid byte converts. -/
theorem test_convert_full_grid : ∃ t, exec .convert (fullGrid 5#8) = .next t ∧ t.fault = false ∧ t.done = true := by
  obtain ⟨t, h1, h2, h3, -⟩ := convert_completes (s := fullGrid 5#8) rfl fullGrid_valid
  exact ⟨t, h1, h2, h3⟩

/-! ### The bus and reset (95_test_vectors.md P1, P5) -/

/-- P1 steps 1 and 6. -/
theorem test_bus_reads :
    (start.hostStep (.read 0x13024#17 4)).replies = [.readOk 0x51495859#32] ∧
    (start.hostStep (.read 0x13050#17 4)).replies = [.readOk 0x00AA0000#32] := by decide +kernel

/-- P5 step 11. -/
theorem test_bus_errors :
    (start.hostStep (.read 0x0FA00#17 1)).replies = [.readBusErr 0#32] ∧
    (start.hostStep (.read 0x13002#17 4)).replies = [.readBusErr 0#32] ∧
    (start.hostStep (.write 0x10000#17 1 0#32)).replies = [.writeBusErr] := by decide +kernel

/-- P5 step 2. -/
theorem test_bus_write_while_busy :
    ((pending 0x50000000#32).hostStep (.write 0#17 1 7#32)).pix = [] ∧
    ((pending 0x50000000#32).hostStep (.write 0#17 1 7#32)).ovr = true := by decide +kernel

/-- R142: an offer is accepted, and dropped without a trace in the fault state (P4 step 8). -/
theorem test_bus_offer :
    (start.hostStep (.write 0x13000#17 4 0x50000000#32)).busy = true ∧
    (start.hostStep (.write 0x13000#17 4 0x50000000#32)).pend = 0x50000000#32 ∧
    (faulted.hostStep (.write 0x13000#17 4 0x50000000#32)).ovr = false ∧
    (faulted.hostStep (.write 0x13000#17 4 0x50000000#32)).busy = false := by decide +kernel

/-- P4 step 9. -/
theorem test_soft_reset :
    (faulted.hostStep (.write 0x13008#17 4 0x80000000#32)).statusWord = 0#32 ∧
    (faulted.hostStep (.write 0x13008#17 4 0x80000000#32)).err = 0#4 ∧
    (faulted.hostStep (.write 0x13008#17 4 0x80000000#32)).gridW = 320#16 ∧
    (faulted.hostStep (.write 0x13008#17 4 0x80000000#32)).pix = [(321, 0x10#8)] := by decide +kernel

/-! ### Witnesses: states and operands that meet the hypotheses of each obligation together -/

theorem witness_DecodeInvertsEncode :
    Instr.wellFormed (.matchRgb 255#8 0#8 255#8) = true ∧ Instr.wellFormed (.qcell 999#10) = true := by decide

theorem witness_DecodedWordIsItsOwnEncoding : decodeWord 0x400003E7#32 = .ok (.qcell 999#10) := by decide

/-- The last clause at both ends of the reserved `op` values. -/
theorem witness_DecodeFollowsMaskAndMatch :
    6 ≤ ((0x60000000#32).extractLsb' 28 4).toNat ∧ 6 ≤ ((0xFFFFFFFF#32).extractLsb' 28 4).toNat := by decide

/-- A word of each of the listed kinds. -/
theorem witness_IllegalWordsAreThoseListed :
    6 ≤ ((0x60000000#32).extractLsb' 28 4).toNat ∧ (0x01000000#32).extractLsb' 24 4 ≠ 0#4 ∧
    (0x50000001#32).extractLsb' 0 24 ≠ 0#24 ∧ (0x20000010#32).extractLsb' 4 20 ≠ 0#20 ∧
    (0x40000400#32).extractLsb' 10 14 ≠ 0#14 ∧ 1000 ≤ ((0x400003E8#32).extractLsb' 0 10).toNat := by decide

/-- A due command: its time is over with an input left, and no input is left with time to go. -/
theorem witness_StepRunsTheDecodedCommand :
    ({ pending 0x2000000B#32 with agenda := [.rstLine true] }.busyLeft = 0 ∧ (pending 0x2000000B#32).busy = true ∧
      decodeWord (pending 0x2000000B#32).pend = .ok (.setbg 11#4)) ∧
    ({ pending 0x2000000B#32 with busyLeft := 3 }.agenda = []) := by decide

theorem witness_PendingIllegalWordFaults :
    (pending 0x60000000#32).busy = true ∧ (pending 0x60000000#32).busyLeft = 0 ∧
    decodeWord (pending 0x60000000#32).pend = .error .reservedOp := by decide

/-- An input is next, for an idle block and for a busy one whose time is not over. -/
theorem witness_InputsTakeEffectInOrder :
    ({ start with agenda := [.read 0x13004#17 4] }.agenda = .read 0x13004#17 4 :: [] ∧ start.busy = false) ∧
    ({ pending 0#32 with busyLeft := 1, agenda := [.read 0x13004#17 4] }.busyLeft ≠ 0) := by decide

theorem witness_IdleBlockStaysAsItIs : start.busy = false ∧ start.agenda = [] := by decide

theorem witness_PlacedWordRunsNext : decodeTableWord 32 0x400003E7 = some (.qcell 999#10) := by decide

/-- A busy block with two inputs to take before its command completes. -/
theorem witness_PendingCommandEnds :
    { pending 0#32 with busyLeft := 2, agenda := [.read 0#17 1, .read 0#17 1, .read 0#17 1] }.busy = true := by decide

theorem witness_PaletteEntryMatchesItself : palF0.Legal ∧ palF1.Legal := by decide +kernel

theorem witness_BgselSelectsTheMode :
    (fullGrid 5#8).gridW = 320#16 ∧ (fullGrid 5#8).gridH = 200#16 ∧
    ∀ a < 64000, ((fullGrid 5#8).pixByte a).toNat ≤ 15 := ⟨rfl, rfl, fullGrid_valid⟩

/-- A full grid with one more byte written. -/
def spoiled (a : Nat) : State := { fullGrid 5#8 with pix := (filled 5#8).put a 0x10#8 }

theorem pixByte_spoiled (a b : Nat) :
    (spoiled a).pixByte b = if b = a then 0x10#8 else (fullGrid 5#8).pixByte b := by
  show ((Memory.put (filled 5#8) a 0x10#8).find b).getD _ = _
  rw [Memory.find_put]
  split <;> rfl

/-- A spoiled grid meets the second clause at its one invalid byte. -/
theorem spoiled_invalid {a : Nat} (h : a < 64000) :
    (∀ b < a, ((spoiled a).pixByte b).toNat ≤ 15) ∧ 15 < ((spoiled a).pixByte a).toNat := by
  refine ⟨fun b hb => ?_, ?_⟩
  · rw [pixByte_spoiled, if_neg (by omega)]; exact fullGrid_valid b (by omega)
  · rw [pixByte_spoiled, if_pos rfl]; decide

/-- A wrong width, a wrong height, and an invalid byte at the first and at the last address. -/
theorem witness_WholeGridCommandsFault :
    (Instr.bgsel = .bgsel ∨ Instr.bgsel = .convert) ∧
    ¬({ start with gridW := 319#16 }.gridW = 320#16 ∧ { start with gridW := 319#16 }.gridH = 200#16) ∧
    ¬({ start with gridH := 201#16 }.gridW = 320#16 ∧ { start with gridH := 201#16 }.gridH = 200#16) ∧
    ((spoiled 0).gridW = 320#16 ∧ (spoiled 0).gridH = 200#16 ∧
      (∀ b < 0, ((spoiled 0).pixByte b).toNat ≤ 15) ∧ 15 < ((spoiled 0).pixByte 0).toNat) ∧
    ((spoiled 63999).gridW = 320#16 ∧ (spoiled 63999).gridH = 200#16 ∧
      (∀ b < 63999, ((spoiled 63999).pixByte b).toNat ≤ 15) ∧ 15 < ((spoiled 63999).pixByte 63999).toNat) :=
  ⟨.inl rfl, by decide, by decide, ⟨rfl, rfl, spoiled_invalid (by decide)⟩, ⟨rfl, rfl, spoiled_invalid (by decide)⟩⟩

/-- The first and the last cell and sample; and the equation of the last clause. -/
theorem witness_SampleAddressesAreTheRules :
    (0 < 1000 ∧ 0 < 32 ∧ sampleAddr 0 0 = 0) ∧ 999 < 1000 ∧ 31 < 32 ∧ sampleAddr 999 31 = sampleAddr 999 31 := by
  decide

/-- What QCELL of a cell needs to complete. -/
def readyFor (s : State) (c : BitVec 10) : Prop :=
  c.toNat < 1000 ∧ s.gridW = 320#16 ∧ s.gridH = 200#16 ∧ s.bgValid = true ∧
    ∀ i < 32, (s.pixByte (sampleAddr c.toNat i)).toNat ≤ 15

/-- The first and the last cell, each with a state in which its samples are valid. -/
theorem witness_QcellWritesItsCell :
    readyFor (withCell 0 cellQV5 0#4) 0#10 ∧ readyFor (withCell 999 cellQV5 0#4) 999#10 := by
  unfold readyFor; decide +kernel

/-- A cell of QV1 with its sample at address `a` spoiled. -/
def badCell (c a : Nat) : State := { withCell c cellQV1 0#4 with pix := (cellPix c cellQV1).put a 16#8 }

/-- What makes sample `i` the first invalid one of a cell that QCELL would otherwise quantize. -/
def firstInvalid (s : State) (c : BitVec 10) (i : Nat) : Prop :=
  c.toNat < 1000 ∧ s.gridW = 320#16 ∧ s.gridH = 200#16 ∧ s.bgValid = true ∧ i < 32 ∧
    (∀ j < i, (s.pixByte (sampleAddr c.toNat j)).toNat ≤ 15) ∧ 15 < (s.pixByte (sampleAddr c.toNat i)).toNat

/-- Each clause: the cell indices 1000 and 1023; a wrong shape at cell 999; no background at cell 999; and an invalid
byte at the first and at the last sample. -/
theorem witness_QcellFaultsInOrder :
    (1000 ≤ (1000#10).toNat ∧ 1000 ≤ (1023#10).toNat) ∧
    ((999#10).toNat < 1000 ∧ ¬({ start with gridH := 199#16 }.gridW = 320#16 ∧
      { start with gridH := 199#16 }.gridH = 200#16)) ∧
    ((999#10).toNat < 1000 ∧ start.gridW = 320#16 ∧ start.gridH = 200#16 ∧ start.bgValid = false) ∧
    firstInvalid (badCell 0 0) 0#10 0 ∧ firstInvalid (badCell 999 63998) 999#10 31 := by
  unfold firstInvalid; decide +kernel

/-- Another byte in an odd column, and a QCELL that takes a next state. -/
theorem witness_OddColumnsDoNotReachACell :
    (∀ a, a % 2 = 0 → ({ withCell 0 cellQV1 0#4 with pix := (cellPix 0 cellQV1).put 1 0xFF#8 } : State).pixByte a =
      (withCell 0 cellQV1 0#4).pixByte a) ∧
    ∃ t, exec (.qcell 0#10) (withCell 0 cellQV1 0#4) = .next t := by
  refine ⟨fun a h => ?_, _, rfl⟩
  show ((Memory.put (cellPix 0 cellQV1) 1 0xFF#8).find a).getD _ = ((cellPix 0 cellQV1).find a).getD _
  rw [Memory.find_put_ne _ _ (by rintro rfl; exact absurd h (by decide))]

/-- QV5 with an excluded colour; and QV4's cell, whose slots are unused. -/
theorem witness_SlotsHoldTheTopRankedColors :
    ((quantCell palF0 cellQV5 0#4).nsel = 3 ∧ 4#4 ∈ cellQV5 ∧ 4#4 ≠ 0#4 ∧
      ∀ s, 1 ≤ s → s ≤ 3 → (quantCell palF0 cellQV5 0#4).slot.getD s 0#4 ≠ 4#4) ∧
    (quantCell palF0 (List.replicate 32 11#4) 11#4).nsel < 1 := by
  refine ⟨⟨by decide +kernel, by decide, by decide, fun s h1 h2 => ?_⟩, by decide +kernel⟩
  interval_cases s <;> decide +kernel

theorem witness_RetainedColorsKeepTheirSlot :
    cellQV1[31]? = some 6#4 ∧ 3 ≤ (quantCell palF0 cellQV1 0#4).nsel ∧
    (quantCell palF0 cellQV1 0#4).slot[3]? = some 6#4 := by decide +kernel

theorem witness_ExcludedColorsGoToTheNearestSlot :
    cellQV5[24]? = some 4#4 ∧
    ∀ s ≤ (quantCell palF0 cellQV5 0#4).nsel, (quantCell palF0 cellQV5 0#4).slot.getD s 0#4 ≠ 4#4 := by
  refine ⟨by decide, fun s hs => ?_⟩
  have h : s ≤ 3 := hs.trans (by decide +kernel)
  interval_cases s <;> decide +kernel

theorem witness_CellsWithinTheBudgetAreLossless :
    (cellQV1.eraseDups.filter fun k => k != 0#4).length ≤ 3 ∧ cellQV1[31]? = some 6#4 := by decide +kernel

theorem witness_QcellReadsBackLosslessly :
    readyFor (withCell 999 cellQV1 0#4) 999#10 ∧
    (((withCell 999 cellQV1 0#4).samples (999#10).toNat).eraseDups.filter fun k =>
      k != (withCell 999 cellQV1 0#4).bg).length ≤ 3 := by
  unfold readyFor; decide +kernel

theorem witness_ConvertWritesEveryCell :
    (fullGrid 5#8).gridW = 320#16 ∧ (fullGrid 5#8).gridH = 200#16 ∧
    ∀ a < 64000, ((fullGrid 5#8).pixByte a).toNat ≤ 15 := ⟨rfl, rfl, fullGrid_valid⟩

theorem witness_ConvertIsIdempotent :
    (fullGrid 5#8).fault = false ∧ (∃ t, exec .convert (fullGrid 5#8) = .next t ∧ t.fault = false) ∧
    (999#10).toNat < 1000 := by
  obtain ⟨t, h1, h2, -⟩ := test_convert_full_grid
  exact ⟨rfl, ⟨t, h1, h2⟩, by decide⟩

theorem witness_OneColorGridConverts :
    (fullGrid 5#8).gridW = 320#16 ∧ (fullGrid 5#8).gridH = 200#16 ∧
    ∀ a < 64000, (fullGrid 5#8).pixByte a = (5#4 : Color).setWidth 8 := ⟨rfl, rfl, fun _ h => pixByte_fullGrid _ h⟩

/-- A `PIX` of colour 5 but for one odd-column pixel of colour 7. -/
def speckled : Memory := (filled 5#8).put 1 7#8

def speckledGrid : State := { fullGrid 5#8 with pix := speckled }

theorem pixByte_speckled (b : Nat) :
    speckledGrid.pixByte b = if b = 1 then 7#8 else (fullGrid 5#8).pixByte b := by
  show ((Memory.put (filled 5#8) 1 7#8).find b).getD _ = _
  rw [Memory.find_put]
  split <;> rfl

/-- A colour that more than half of a list holds is its mode. -/
theorem modeColor_of_count {l : List Color} {k : Color} (h : l.length < 2 * l.count k) : modeColor l = k := by
  have hle : ∀ (l : List Color) (j : Color), j ≠ k → l.count j + l.count k ≤ l.length := fun l j hj => by
    induction l with
    | nil => simp
    | cons x l ih => simp only [List.count_cons, List.length_cons, beq_iff_eq]; split <;> split <;> grind
  by_contra hn
  have h1 := hle l _ hn
  have h2 := (modeColor_spec l k).1
  omega

theorem mode_of_grid {s : State} {k : Color} (h : ∀ a < 64000, a ≠ 1 → s.pixByte a = k.setWidth 8) :
    modeColor (s.pixColors gridAddrs) = k := by
  apply modeColor_of_count
  have hs : ∀ n, List.range' 0 (n + 2) = 0 :: 1 :: List.range' 2 n := fun n => rfl
  have e : gridAddrs = 0 :: 1 :: List.range' 2 63998 := hs 63998
  have hr : s.pixColors (List.range' 2 63998) = List.replicate 63998 k := by
    rw [State.pixColors, List.eq_replicate_iff]
    refine ⟨by simp, fun x hx => ?_⟩
    obtain ⟨a, ha, rfl⟩ := List.mem_map.1 hx
    rw [List.mem_range'_1] at ha
    rw [h a (by omega) (by omega)]
    simp
  have hc : s.pixColors gridAddrs = k :: (s.pixByte 1).setWidth 4 :: List.replicate 63998 k := by
    rw [← hr, e]
    simp only [State.pixColors, List.map_cons, h 0 (by omega) (by omega)]
    simp
  rw [hc, List.length_cons, List.length_cons, List.length_replicate, List.count_cons, List.count_cons,
    List.count_replicate_self]
  simp only [BEq.rfl, if_true]
  omega

theorem witness_OddColumnsOnlyCountInTheTally :
    (fullGrid 5#8).fault = false ∧
    (∀ a, a % 2 = 0 → ({ fullGrid 5#8 with pix := speckled } : State).pixByte a = (fullGrid 5#8).pixByte a) ∧
    ∃ t u, exec .convert (fullGrid 5#8) = .next t ∧ t.fault = false ∧
      exec .convert { fullGrid 5#8 with pix := speckled } = .next u ∧ u.fault = false ∧ u.bg = t.bg := by
  obtain ⟨t, h1, h2, -, h3⟩ := convert_completes (s := fullGrid 5#8) rfl fullGrid_valid
  obtain ⟨u, k1, k2, -, k3⟩ := convert_completes (s := speckledGrid) rfl fun a ha => by
    rw [pixByte_speckled]
    split
    · decide
    · exact fullGrid_valid a ha
  have h4 : modeColor ((fullGrid 5#8).pixColors gridAddrs) = 5#4 := mode_of_grid fun a ha _ => pixByte_fullGrid 5#8 ha
  have k4 : modeColor (speckledGrid.pixColors gridAddrs) = 5#4 := mode_of_grid fun a ha hn => by
    rw [pixByte_speckled, if_neg hn]; exact pixByte_fullGrid 5#8 ha
  refine ⟨rfl, fun a ha => ?_, t, u, h1, h2, k1, k2, (k3.trans k4).trans (h3.trans h4).symm⟩
  exact (pixByte_speckled a).trans (if_neg (by rintro rfl; exact absurd ha (by decide)))

theorem witness_CommandsTouchOnlyTheirResults :
    (∃ t, exec (.qcell 41#10) (withCell 41 cellQV1 0#4) = .next t) ∧ (∀ r g b, Instr.qcell 41#10 ≠ .matchRgb r g b) ∧
    (∀ k, Instr.qcell 41#10 ≠ .setbg k) ∧ Instr.qcell 41#10 ≠ .bgsel ∧ Instr.qcell 41#10 ≠ .convert ∧
    (∀ c, Instr.nop ≠ .qcell c) := by
  refine ⟨⟨_, rfl⟩, ?_, ?_, ?_, ?_, ?_⟩ <;> simp

/-- A command that completes and one that faults. -/
theorem witness_CommandsAreAllOrNothing :
    start.done = false ∧ start.fault = false ∧ (∃ t, exec .nop start = .next t ∧ t.fault = false) ∧
    ∃ t, exec (.qcell 0#10) start = .next t ∧ t.fault = true :=
  ⟨rfl, rfl, ⟨_, rfl, rfl⟩, ⟨_, rfl, rfl⟩⟩

/-- In the fault state with an offer next. -/
theorem witness_FaultStaysUntilReset :
    let s := { faulted with agenda := [.write 0x13000#17 4 0#32] }
    s.fault = true ∧ s.busy = false ∧ (∀ rest, s.agenda ≠ .rstLine true :: rest) ∧
    (∀ (v : Word) (rest : List HostEvent), v.getLsbD 31 = true → s.agenda ≠ .write 0x13008#17 4 v :: rest) ∧
    ∃ t, step s = .next t := by
  refine ⟨rfl, rfl, ?_, ?_, ⟨_, rfl⟩⟩ <;> simp

theorem witness_BothResetSourcesReset :
    start.rst = false ∧ (0x80000000#32).getLsbD 31 = true ∧ { start with rst := true }.rst = true := by decide

/-- An idle and a busy block. -/
theorem witness_ResetLeavesTheResetValues : start.busy = false ∧ (pending 0#32).busy = true := by decide

/-- Every cause, the unmapped ranges at both their ends, and the read-only ranges at both theirs. -/
theorem witness_BusErrorsChangeNothing :
    { start with rst := true }.rst = true ∧ (2 ≠ 1 ∧ 2 ≠ 4) ∧
    (0x0FA00 ≤ (0x0FA00#17).toNat ∧ (0x0FFFF#17).toNat ≤ 0x0FFFF) ∧
    (0x11F40 ≤ (0x11F40#17).toNat ∧ (0x11FFF#17).toNat ≤ 0x11FFF) ∧
    (0x123E8 ≤ (0x123E8#17).toNat ∧ (0x123FF#17).toNat ≤ 0x123FF) ∧
    (0x127E8 ≤ (0x127E8#17).toNat ∧ (0x12FFF#17).toNat ≤ 0x12FFF) ∧
    (0x13028 ≤ (0x13028#17).toNat ∧ (0x1303F#17).toNat ≤ 0x1303F) ∧
    (0x13080 ≤ (0x13080#17).toNat ∧ 0x13080 ≤ (0x1FFFF#17).toNat) ∧
    (0x12FFF#17).toNat < 0x13000 ∧ 0x13000 ≤ (0x13000#17).toNat ∧ (0x13001#17).toNat % 4 ≠ 0 ∧
    (0x10000 ≤ (0x10000#17).toNat ∧ (0x127E7#17).toNat ≤ 0x127E7) ∧
    (0x1300C ≤ (0x1300C#17).toNat ∧ (0x1301B#17).toNat ≤ 0x1301B) ∧ 0x13024 ≤ (0x13024#17).toNat := by decide

/-- An idle block; the last byte of each memory. -/
theorem witness_MemoryReadsReturnTheBytes :
    start.rst = false ∧ start.busy = false ∧ 63999 < 64000 ∧ 7999 < 8000 ∧ 999 < 1000 := by decide

theorem witness_RegisterReadsReturnTheWords : start.rst = false ∧ start.busy = false := by decide

/-- A busy block; the first and the last byte of each buffer. -/
theorem witness_BusyResultReadsAreFree :
    (pending 0#32).rst = false ∧ (pending 0#32).busy = true ∧
    (0x10000 ≤ 0x10000 ∧ 0x11F3F < 0x11F40) ∧ (0x12000 ≤ 0x12000 ∧ 0x123E7 < 0x123E8) ∧
    (0x12400 ≤ 0x12400 ∧ 0x127E7 < 0x127E8) := by decide

theorem witness_IdleReadsAreIdempotent : start.busy = false := by decide

theorem witness_PixelWritesAreStored : start.rst = false ∧ start.busy = false ∧ 63999 < 64000 := by decide

theorem witness_WritesWhileBusyAreDropped :
    (pending 0#32).rst = false ∧ (pending 0#32).busy = true ∧ (pending 0#32).fault = false ∧ 63999 < 64000 := by decide

/-- A write to `CTRL` without a reset; an idle block. -/
theorem witness_RegisterWritesDoWhatTheRulesSay :
    start.rst = false ∧ (0x7FFFFFFF#32).getLsbD 31 = false ∧ start.busy = false := by decide

/-- A faulted, a busy and an idle block. -/
theorem witness_CommandOffersFollowTheRule :
    (faulted.rst = false ∧ faulted.fault = true) ∧
    ((pending 0#32).rst = false ∧ (pending 0#32).fault = false ∧ (pending 0#32).busy = true) ∧
    (start.rst = false ∧ start.fault = false ∧ start.busy = false) := by decide

/-- The first and the last reserved bit. -/
theorem witness_StatusWordHasTheFlags : 5 ≤ 5 ∧ 5 ≤ 31 := by decide

/-- A busy block that stays busy over a dropped write to `PIX`. -/
theorem witness_PendingCommandSeesAStableState :
    (pending 0x50000000#32).busy = true ∧
    ∃ t, step { pending 0x50000000#32 with busyLeft := 2, agenda := [.write 0#17 1 7#32] } = .next t ∧
      t.busy = true := ⟨rfl, _, rfl, rfl⟩

theorem witness_PaletteNeverChanges : ∃ t, step (pending 0#32) = .next t := ⟨_, rfl⟩

/-- A busy block with a byte in `PIX` and one in `COL`, whose step completes a command. -/
def witnessInvariant : State := { pending 0x2000000B#32 with pix := [(0, 0xFF#8)], col := [(999, 0x0F#8)] }

theorem witness_EveryStepKeepsTheInvariant : witnessInvariant.Inv ∧ ∃ t, step witnessInvariant = .next t := by
  refine ⟨⟨by decide, ?_, by decide, by decide, fun _ => rfl, fun h => (by cases h), witness_PaletteEntryMatchesItself.1⟩,
    _, rfl⟩
  exact ⟨fun _ => ⟨rfl, rfl⟩, fun h => by cases h⟩

/-- A host that offers a command and then polls `STATUS` until the command's time is over, and once more. -/
def polling (w : Word) (later : List HostEvent) : State :=
  { State.reset with
    agenda := (.write 0x13000#17 4 w :: List.replicate (Config.busyTime 1) statusRead) ++ statusRead :: later }

/-- The state in which that command is due, with the responses given so far. -/
def due (w : Word) (later : List HostEvent) (rs : List Reply) : State :=
  { State.reset with pend := w, busy := true, draws := 2, agenda := statusRead :: later, replies := rs }

theorem step_due {w : Word} {i : Instr} (h : decodeWord w = .ok i) (later : List HostEvent) (rs : List Reply) :
    step (due w later rs) = exec i (due w later rs) := by
  show complete (due w later rs) = _
  simp only [complete, show (due w later rs).pend = w from rfl, h]

theorem step_due_illegal {w : Word} {why : Illegal} (h : decodeWord w = .error why) (later : List HostEvent)
    (rs : List Reply) :
    step (due w later rs) = .next ((due w later rs).faultEntry (illegalTrap (due w later rs))) := by
  show complete (due w later rs) = _
  simp only [complete, show (due w later rs).pend = w from rfl, h]

/-- Polls run the time of a pending command down. -/
theorem polls_run_down (x : State) (rest : List HostEvent) (hb : x.busy = true) (hr : x.rst = false)
    (ha : x.agenda = List.replicate x.busyLeft statusRead ++ rest) :
    ∃ rs, Steps x { x with busyLeft := 0, agenda := rest, replies := rs } := by
  generalize hk : x.busyLeft = k at ha
  induction k generalizing x with
  | zero =>
    refine ⟨x.replies, ?_⟩
    obtain ⟨⟩ := x
    simp only [List.replicate_zero, List.nil_append] at ha hk
    subst ha hk
    exact .refl
  | succ k ih =>
    have hs : step x = .next (x.takeEvent statusRead (List.replicate k statusRead ++ rest)) := by
      rcases step_cases x with ⟨hc, -⟩ | ⟨-, hn, -⟩ | ⟨e, r, -, he, hs⟩
      · simp [State.coreMoves, hk, ha, List.replicate_succ] at hc
      · rw [ha] at hn; cases hn
      · rw [ha] at he
        obtain ⟨rfl, rfl⟩ := List.cons.inj he
        exact hs
    rw [takeEvent_statusRead hr] at hs
    obtain ⟨rs, h⟩ := ih (({ x with
      agenda := List.replicate k statusRead ++ rest, busyLeft := x.busyLeft - 1 } : State).reply
        (.readOk x.statusWord)) hb hr (show x.busyLeft - 1 = k by omega) rfl
    exact ⟨rs, (Steps.single hs).trans h⟩

/-- Such a host's run ends where its command's completion leaves an idle block. -/
theorem polling_run_ends (w sw : Word) (later : List HostEvent) (hi : sw.getLsbD 0 = false)
    (hc : ∀ rs, ∃ u, step (due w later rs) = .next u ∧ u.agenda = statusRead :: later ∧ u.rst = false ∧
      u.busy = false ∧ u.statusWord = sw) :
    ∃ t, RunEnds (polling w later) (.write 0x13000#17 4 w :: List.replicate (Config.busyTime 1) statusRead) t sw ∧
      t.agenda = later := by
  obtain ⟨rs, h⟩ := polls_run_down ((polling w later).takeEvent (.write 0x13000#17 4 w)
    (List.replicate (Config.busyTime 1) statusRead ++ statusRead :: later)) (statusRead :: later) rfl rfl rfl
  obtain ⟨u, h1, h2, h3, h4, h5⟩ := hc rs
  have hu : step u = .next (u.takeEvent statusRead later) := by
    simp only [step, advance, State.coreMoves, h4, h2, Bool.false_and, Bool.false_eq_true, if_false]
  have e : u.takeEvent statusRead later =
      ({ u with agenda := later, busyLeft := u.busyLeft - 1 } : State).reply (.readOk sw) := by
    rw [takeEvent_statusRead h3, h5]
  refine ⟨_, ⟨⟨rfl, .inr rfl⟩, ?_, ⟨u, ?_, ((Steps.single rfl).trans h).tail h1, ?_, hu, ?_⟩, hi⟩, ?_⟩
  · intro x hx
    rcases List.mem_cons.1 hx with rfl | hx
    · rfl
    · rw [List.eq_of_mem_replicate hx]; rfl
  · rw [e]; rfl
  · rw [e, h2]; rfl
  · rw [e]; rfl
  · rw [e]; rfl

/-- A run with a SETBG that ends well; after it a write to `PIX` and the release of the reset line. -/
theorem run_ends_well : ∃ s es t w, RunEndedWell s es t w ∧ ∀ e ∈ t.agenda, e.isOffer = false ∧ e.isReset = false := by
  obtain ⟨t, h, ha⟩ := polling_run_ends 0x2000000B#32 0x12#32 [.write 0#17 1 7#32, .rstLine false] (by decide)
    fun rs => ⟨((due 0x2000000B#32 _ rs).setBackground 11#4).markDone,
      step_due (w := 0x2000000B#32) (i := .setbg 11#4) (by decide) _ rs, rfl, rfl, rfl, by
      show (BitVec.ofBool true ++ 0#1 ++ 0#1 ++ BitVec.ofBool true ++ 0#1).setWidth 32 = 0x12#32
      decide⟩
  exact ⟨_, _, t, _, ⟨h, by decide, by decide⟩, by rw [ha]; decide⟩

theorem witness_ResultsOfAnEndedRunAreStable :
    ∃ s es t w, RunEnds s es t w ∧ (∀ e ∈ t.agenda, e.isOffer = false ∧ e.isReset = false) ∧
      ∃ u, step t = .next u ∧ Steps t u := by
  obtain ⟨s, es, t, w, h, hq⟩ := run_ends_well
  rcases step_cases t with ⟨-, e⟩ | ⟨-, -, e⟩ | ⟨_, _, -, -, e⟩
  · rcases complete_cases t with ⟨_, -, e2⟩ | ⟨i, -, e2⟩
    · exact ⟨s, es, t, w, h.1, hq, _, e.trans e2, .single (e.trans e2)⟩
    · rcases exec_cases i t with ⟨_, -, e3⟩ | ⟨_, -, e3⟩ <;>
        exact ⟨s, es, t, w, h.1, hq, _, (e.trans e2).trans e3, .single ((e.trans e2).trans e3)⟩
  · exact ⟨s, es, t, w, h.1, hq, _, e, .single e⟩
  · exact ⟨s, es, t, w, h.1, hq, _, e, .single e⟩

/-- A run with an illegal command word. -/
theorem witness_BadlyEndedRunKeepsEarlierResults : ∃ s es t w, RunEndedBadly s es t w := by
  obtain ⟨t, h, -⟩ := polling_run_ends 0x60000000#32 0x04#32 [] (by decide)
    fun rs => ⟨(due 0x60000000#32 [] rs).faultEntry (illegalTrap _),
      step_due_illegal (why := .reservedOp) (by decide) _ rs, rfl, rfl, rfl, by
      show (0#1 ++ 0#1 ++ BitVec.ofBool true ++ 0#1 ++ 0#1).setWidth 32 = 0x04#32
      decide⟩
  exact ⟨_, _, t, _, h, by decide⟩

theorem witness_WellEndedRunHasNoFaultOrOverrun : ∃ s es t w, RunEndedWell s es t w := by
  obtain ⟨s, es, t, w, h, -⟩ := run_ends_well
  exact ⟨s, es, t, w, h⟩

end Sys2Proof.Tests
end

/-! PROOF. The invariant of the machine (O54, O55): what each fault records, then one lemma per kind of step, each
resting on the case lemmas of Laws/Bus.lean and Laws/Step.lean. -/

namespace Sys2Proof

/-- A word decodes to legal commands only: QCELL is the one command whose operand the decoder checks. -/
theorem wellFormed_of_decodeWord {w : Word} {i : Instr} (h : decodeWord w = .ok i) : i.wellFormed = true := by
  cases i with
  | qcell c =>
    unfold decodeWord at h
    repeat' split at h
    all_goals cases h
    exact decide_eq_true ‹_ < Config.cellCount›
  | nop | matchRgb | setbg | bgsel | convert => rfl

end Sys2Proof

namespace Sys2Proof.Machine

/-! ### What a fault records (60_exceptions.md R151 to R154) -/

theorem errorRecorded_pixelTrap {v : Byte} {a : Nat} (ha : a < Config.pixelCount) (hv : 15 < v.toNat) :
    errorRecorded (pixelTrap v a).code.bits (pixelTrap v a).info := by
  simp only [Config.pixelCount] at ha
  have hinfo : (pixelTrap v a).info.toNat = v.toNat * 16777216 + a := by
    simp only [pixelTrap, toNat_join, BitVec.toNat_ofNat]; omega
  refine .inl ⟨rfl, ?_, BitVec.eq_of_toNat_eq ?_, ?_⟩ <;>
    simp only [toNat_field, hinfo, Config.pixelCount, BitVec.toNat_ofNat] <;> omega

theorem errorRecorded_shapeTrap {s : State} (h : s.shapeOk = false) :
    errorRecorded (shapeTrap s).code.bits (shapeTrap s).info := by
  have hw : (shapeTrap s).info.extractLsb' 0 16 = s.gridW := BitVec.extractLsb'_append_eq_right
  have hh : (shapeTrap s).info.extractLsb' 16 16 = s.gridH := BitVec.extractLsb'_append_eq_left
  refine .inr (.inl ⟨rfl, ?_⟩)
  rw [hw, hh]
  rintro ⟨ew, eh⟩
  simp [State.shapeOk, ew, eh] at h

theorem errorRecorded_illegalTrap {s : State} {why : Illegal} (h : decodeWord s.pend = .error why) :
    errorRecorded (illegalTrap s).code.bits (illegalTrap s).info :=
  .inr (.inr (.inl ⟨rfl, why, h⟩))

theorem errorRecorded_bgUnsetTrap {s : State} {c : BitVec 10} (h : decodeWord s.pend = .ok (.qcell c)) :
    errorRecorded (bgUnsetTrap s).code.bits (bgUnsetTrap s).info :=
  .inr (.inr (.inr ⟨rfl, c, h⟩))

/-- A fault that the pending command raises is recorded in the layout of its code. A cell index out of range is no
case of it: the decoder has refused such a word. -/
theorem CommandTrap.recorded {i : Instr} {s : State} {e : Trap} (h : CommandTrap i s e)
    (hd : decodeWord s.pend = .ok i) : errorRecorded e.code.bits e.info := by
  cases h with
  | range c hi hc =>
    subst hi
    have hlt : c.toNat < Config.cellCount := of_decide_eq_true (wellFormed_of_decodeWord hd)
    omega
  | shape hs => exact errorRecorded_shapeTrap hs
  | background c hi _ => subst hi; exact errorRecorded_bgUnsetTrap hd
  | pixel a ha hv => exact errorRecorded_pixelTrap ha hv

/-! ### The parts of the invariant -/

/-- `STATUS` reads 0 exactly where all five flags are 0. -/
theorem statusWord_eq_zero_iff (s : State) :
    s.statusWord = 0#32 ↔
      s.busy = false ∧ s.done = false ∧ s.fault = false ∧ s.ovr = false ∧ s.bgValid = false := by
  simp only [State.statusWord]
  generalize s.busy = b, s.done = d, s.fault = f, s.ovr = o, s.bgValid = v
  revert b d f o v
  decide

/-- With the line released, nothing is asked of the registers. -/
theorem resetLineOk_of_released {s : State} (h : s.rst = false) : s.resetLineOk := fun hr => by
  simp [h] at hr

theorem errorOk_of_noFault {s : State} (hf : s.fault = false) (he : s.err = 0#4) (hi : s.errInfo = 0#32) :
    s.errorOk :=
  ⟨fun _ => ⟨he, hi⟩, fun h => by simp [hf] at h⟩

/-- A busy block is not done, not faulted and not held in reset. -/
theorem State.Inv.of_busy {s : State} (h : s.Inv) (hb : s.busy = true) :
    s.done = false ∧ s.fault = false ∧ s.rst = false := by
  obtain ⟨hbd, hbf, -⟩ := h.flags
  refine ⟨by simpa [hb] using hbd, by simpa [hb] using hbf, Bool.eq_false_iff.2 fun hr => ?_⟩
  have hidle := ((statusWord_eq_zero_iff s).1 (h.resetLine hr).1).1
  simp [hb] at hidle

/-! ### The reset -/

theorem registersAtReset_performReset (s : State) : s.performReset.registersAtReset :=
  ⟨(statusWord_eq_zero_iff _).2 ⟨rfl, rfl, rfl, rfl, rfl⟩, rfl, rfl, rfl, rfl, rfl, rfl, rfl⟩

theorem memoriesOk_performReset {s : State} (h : s.memoriesOk) : s.performReset.memoriesOk := by
  obtain ⟨hpix, hbmp, hscr, hcol⟩ := h
  simp only [State.memoriesOk, State.performReset_pix, State.performReset_bmp, State.performReset_scr,
    State.performReset_col]
  split
  · exact ⟨hpix, Memory.nil_wf _, Memory.nil_wf _, Memory.nil_wf _⟩
  · exact ⟨hpix, hbmp, hscr, hcol⟩

theorem colorBytesOk_performReset {s : State} (h : s.colorBytesOk) : s.performReset.colorBytesOk := by
  simp only [State.colorBytesOk, State.performReset_col]
  split
  · simp
  · exact h

theorem State.Inv.performReset {s : State} (h : s.Inv) : s.performReset.Inv where
  flags := by simp [State.flagsOk]
  error := errorOk_of_noFault rfl rfl rfl
  memories := memoriesOk_performReset h.memories
  colorBytes := colorBytesOk_performReset h.colorBytes
  background := fun _ => rfl
  resetLine := fun _ => registersAtReset_performReset s
  palette := h.palette

/-! ### The inputs of the host -/

/-- The state that stands before an input takes effect: the model's own fields alone have moved on. -/
theorem State.Inv.advanceAgenda {s : State} (h : s.Inv) (rest : List HostEvent) (left : Nat) :
    ({ s with agenda := rest, busyLeft := left } : State).Inv :=
  ⟨h.flags, h.error, h.memories, h.colorBytes, h.background, h.resetLine, h.palette⟩

theorem State.Inv.reply {s : State} (h : s.Inv) (r : Reply) : (s.reply r).Inv :=
  ⟨h.flags, h.error, h.memories, h.colorBytes, h.background, h.resetLine, h.palette⟩

theorem State.Inv.hostRead {s : State} (h : s.Inv) (addr : HostAddr) (n : Nat) : (s.hostRead addr n).Inv := by
  obtain ⟨r, d, e⟩ := hostRead_frame s addr n
  rw [e]
  exact ⟨h.flags, h.error, h.memories, h.colorBytes, h.background, h.resetLine, h.palette⟩

/-- Acceptance starts from an idle block without a fault and takes DONE back. -/
theorem flagsOk_accept {s : State} (hf : s.fault = false) (w : Word) : (s.accept w).flagsOk := by
  simp [State.flagsOk, hf]

/-- Clearing flags keeps them apart. -/
theorem flagsOk_clearStatus {s : State} (h : s.flagsOk) (v : Word) : (s.clearStatus v).flagsOk := by
  obtain ⟨hbd, hbf, hdf⟩ := h
  simp only [State.flagsOk, State.clearStatus_busy, State.clearStatus_done, State.clearStatus_fault,
    Bool.and_eq_true]
  exact ⟨fun ⟨hb, hd, _⟩ => hbd ⟨hb, hd⟩, hbf, fun ⟨⟨hd, _⟩, hf⟩ => hdf ⟨hd, hf⟩⟩

/-- Every write that is no bus error finds the reset line released, and keeps the invariant. -/
theorem WriteEffect.inv {s u : State} {v : Word} {r : Region} (e : WriteEffect s v r u) (h : s.Inv)
    (hr : s.rst = false) : u.Inv := by
  have released : ∀ {t : State}, t.rst = s.rst → t.resetLineOk := fun ht => resetLineOk_of_released (ht.trans hr)
  cases e with
  | none => exact h
  | pixel a _ _ ha =>
    obtain ⟨hpix, hbufs⟩ := h.memories
    exact ⟨h.flags, h.error, ⟨Memory.put_wf hpix ha _, hbufs⟩, h.colorBytes, h.background, released rfl, h.palette⟩
  | accepted _ _ hf =>
    exact ⟨flagsOk_accept hf v, h.error, h.memories, h.colorBytes, h.background, released rfl, h.palette⟩
  | status =>
    exact ⟨flagsOk_clearStatus h.flags v, h.error, h.memories, h.colorBytes, h.background, released rfl, h.palette⟩
  | reset => exact h.performReset
  | dropped | enable | width | height =>
    exact ⟨h.flags, h.error, h.memories, h.colorBytes, h.background, released rfl, h.palette⟩

theorem State.Inv.hostWrite {s : State} (h : s.Inv) (addr : HostAddr) (n : Nat) (v : Word) :
    (s.hostWrite addr n v).Inv := by
  rcases hostWrite_cases s addr n v with ⟨hw, u, hu, e⟩ | ⟨-, e⟩ <;> rw [e]
  · exact (hu.inv h (rst_of_writeAllowed hw)).reply _
  · exact h.reply _

/-- Asserting the line resets the registers; holding it leaves them there; releasing it asks nothing of them. -/
theorem State.Inv.driveRst {s : State} (h : s.Inv) (b : Bool) : (s.driveRst b).Inv := by
  rcases driveRst_cases s b with ⟨-, -, e⟩ | ⟨hb, e⟩ <;> rw [e]
  · obtain ⟨flags, error, memories, colorBytes, background, -, palette⟩ := h.performReset
    exact ⟨flags, error, memories, colorBytes, background, fun _ => registersAtReset_performReset s, palette⟩
  · refine ⟨h.flags, h.error, h.memories, h.colorBytes, h.background, fun hr => ?_, h.palette⟩
    have held : s.rst = true := hb.resolve_left fun hlow => by simp [hlow] at hr
    exact h.resetLine held

theorem State.Inv.takeEvent {s : State} (h : s.Inv) (e : HostEvent) (rest : List HostEvent) :
    (s.takeEvent e rest).Inv := by
  have hs := h.advanceAgenda rest (s.busyLeft - 1)
  cases e with
  | read addr n => exact hs.hostRead addr n
  | write addr n v => exact hs.hostWrite addr n v
  | rstLine b => exact hs.driveRst b

/-! ### The completion of a command -/

/-- A completion without a fault: a command's writes keep the memories, and the flags stay apart since the block was
busy, hence not faulted. -/
theorem CommandWrites.inv_markDone {s u : State} (w : CommandWrites s u) (h : s.Inv) (hb : s.busy = true) :
    u.markDone.Inv := by
  obtain ⟨-, hf, hr⟩ := h.of_busy hb
  have hfu : u.fault = false := w.fault.trans hf
  obtain ⟨he, hi⟩ := h.error.1 hf
  exact
    { flags := by simp [State.flagsOk, hfu]
      error := errorOk_of_noFault hfu (w.err.trans he) (w.errInfo.trans hi)
      memories := w.memories h.memories
      colorBytes := w.colorBytes h.colorBytes
      background := fun hv => (w.background hv).elim fun hbg hold => hbg.trans (h.background hold)
      resetLine := resetLineOk_of_released (w.rst.trans hr)
      palette := w.pal.symm ▸ h.palette }

/-- A fault entry of a busy block, with a fault of a known layout. -/
theorem State.Inv.faultEntry {s : State} (h : s.Inv) (hb : s.busy = true) {e : Trap}
    (he : errorRecorded e.code.bits e.info) : (s.faultEntry e).Inv := by
  obtain ⟨hd, -, hr⟩ := h.of_busy hb
  exact ⟨by simp [State.flagsOk, hd], ⟨fun hf => by simp at hf, fun _ => he⟩, h.memories, h.colorBytes, h.background,
    resetLineOk_of_released hr, h.palette⟩

theorem State.Inv.complete {s t : State} (h : s.Inv) (hb : s.busy = true) (ht : complete s = .next t) : t.Inv := by
  rcases complete_cases s with ⟨why, hd, e⟩ | ⟨i, hd, e⟩
  · obtain rfl := Host.Outcome.next.inj (e.symm.trans ht)
    exact h.faultEntry hb (errorRecorded_illegalTrap hd)
  · rcases exec_cases i s with ⟨u, hu, hx⟩ | ⟨f, hf, hx⟩ <;>
      obtain rfl := Host.Outcome.next.inj ((e.trans hx).symm.trans ht)
    · exact hu.inv_markDone h hb
    · exact h.faultEntry hb (hf.recorded hd)

/-! ### The obligations -/

/-- Every kind of step keeps the invariant: the completion of the pending command, the idle step, an input. -/
theorem State.Inv.step {s t : State} (h : s.Inv) (ht : step s = .next t) : t.Inv := by
  rcases step_cases s with ⟨hm, e⟩ | ⟨-, -, e⟩ | ⟨ev, rest, -, -, e⟩ <;> rw [e] at ht
  · have hb : s.busy = true := by
      simp only [State.coreMoves, Bool.and_eq_true] at hm
      exact hm.1
    exact h.complete hb ht
  · exact Host.Outcome.next.inj ht ▸ h
  · exact Host.Outcome.next.inj ht ▸ h.takeEvent ev rest

/-- Settles O54: every flag is 0 and every memory is empty; the palette is legal as a member of the type of legal
palettes. -/
theorem invariantHoldsAtReset : Obligations.InvariantHoldsAtReset where
  flags := by decide
  error := errorOk_of_noFault rfl rfl rfl
  memories := ⟨Memory.nil_wf _, Memory.nil_wf _, Memory.nil_wf _, Memory.nil_wf _⟩
  colorBytes := by simp [State.reset]
  background := fun _ => rfl
  resetLine := resetLineOk_of_released rfl
  palette := Config.palette.legal

/-- Settles O55, by cases on what the step does. -/
theorem everyStepKeepsTheInvariant : Obligations.EveryStepKeepsTheInvariant :=
  fun _ _ h ht => h.step ht

end Sys2Proof.Machine

/-! PROOF. The state and its registers (O35, O39, O41, O49, O51, O53): what a command's result is, field by field; what
no step changes; the flags, the register writes and the reset. -/

namespace Sys2Proof.Machine

/-! ### What a command writes (10_state.md R35) -/

/-- The writes of a command, or the fault it raises, before the flags of completion. -/
def commandOutcome (s : State) : Instr → Except Trap State
  | .nop => .ok s
  | .matchRgb r g b => .ok (s.setIdx (nearest s.pal ⟨r, g, b⟩))
  | .setbg k => .ok (s.setBackground k)
  | .bgsel => selectBackground s
  | .qcell c => quantizeCell s c.toNat
  | .convert => convertGrid s

theorem exec_eq_finish (i : Instr) (s : State) : exec i s = .next (finish s (commandOutcome s i)) := by
  cases i <;> rfl

/-- Which results each command writes where it raises no fault, whatever their values, before the flags of
completion. -/
inductive CommandResult (s : State) : Instr → State → Prop where
  | nop : CommandResult s .nop s
  | matchRgb (r g b : Byte) (k : Color) : CommandResult s (.matchRgb r g b) (s.setIdx k)
  | setbg (k : Color) : CommandResult s (.setbg k) (s.setBackground k)
  | bgsel (k : Color) : CommandResult s .bgsel (s.setBackground k)
  | qcell (c : BitVec 10) (q : CellImage) : CommandResult s (.qcell c) (s.writeCell c.toNat q)
  | convert (qs : List CellImage) (k : Color) : CommandResult s .convert ((s.writeCells 0 qs).setBackground k)

theorem commandResult_of_outcome {s u : State} {i : Instr} (h : commandOutcome s i = .ok u) : CommandResult s i u := by
  cases i with
  | nop => cases h; exact .nop
  | matchRgb r g b => cases h; exact .matchRgb r g b _
  | setbg k => cases h; exact .setbg k
  | bgsel =>
    rcases selectBackground_cases s with ⟨-, e⟩ | ⟨-, _, -, -, e⟩ | ⟨-, -, e⟩ <;> have hu := e.symm.trans h
    · cases hu
    · cases hu
    · exact Except.ok.inj hu ▸ .bgsel _
  | qcell c =>
    rcases quantizeCell_cases s c.toNat with ⟨-, e⟩ | ⟨-, -, e⟩ | ⟨-, -, -, e⟩ | ⟨-, -, -, _, -, -, e⟩ |
      ⟨-, -, -, -, e⟩ <;> have hu := e.symm.trans h
    iterate 4 · cases hu
    · exact Except.ok.inj hu ▸ .qcell c _
  | convert =>
    rcases convertGrid_cases s with ⟨-, e⟩ | ⟨-, _, -, -, e⟩ | ⟨-, -, e⟩ <;> have hu := e.symm.trans h
    · cases hu
    · cases hu
    · exact Except.ok.inj hu ▸ .convert _ _

/-- A command ends in the entry of a fault, or in its own result with the flags of completion. -/
theorem exec_result {i : Instr} {s t : State} (h : exec i s = .next t) :
    (∃ e, t = s.faultEntry e) ∨ ∃ u, CommandResult s i u ∧ t = u.markDone := by
  obtain rfl := Host.Outcome.next.inj ((exec_eq_finish i s).symm.trans h)
  cases ho : commandOutcome s i with
  | error e => exact .inl ⟨e, rfl⟩
  | ok u => exact .inr ⟨u, commandResult_of_outcome ho, rfl⟩

@[simp] theorem State.writeCells_idx (s : State) (c : Nat) (qs : List CellImage) : (s.writeCells c qs).idx = s.idx := by
  rw [writeCells_eq]

theorem CommandResult.idx {s u : State} {i : Instr} (h : CommandResult s i u) (hm : ∀ r g b, i ≠ .matchRgb r g b) :
    u.idx = s.idx := by
  cases h with
  | matchRgb r g b k => exact absurd rfl (hm r g b)
  | convert => simp
  | nop | setbg | bgsel | qcell => rfl

theorem CommandResult.background {s u : State} {i : Instr} (h : CommandResult s i u) (hs : ∀ k, i ≠ .setbg k)
    (hb : i ≠ .bgsel) (hc : i ≠ .convert) : u.bg = s.bg ∧ u.bgValid = s.bgValid := by
  cases h with
  | setbg k => exact absurd rfl (hs k)
  | bgsel => exact absurd rfl hb
  | convert => exact absurd rfl hc
  | nop | matchRgb | qcell => exact ⟨rfl, rfl⟩

theorem CommandResult.buffers {s u : State} {i : Instr} (h : CommandResult s i u) (hq : ∀ c, i ≠ .qcell c)
    (hc : i ≠ .convert) : u.bmp = s.bmp ∧ u.scr = s.scr ∧ u.col = s.col := by
  cases h with
  | qcell c q => exact absurd rfl (hq c)
  | convert => exact absurd rfl hc
  | nop | matchRgb | setbg | bgsel => exact ⟨rfl, rfl, rfl⟩

/-- What no command writes, whether it completes or faults. -/
theorem exec_fixed {i : Instr} {s t : State} (h : exec i s = .next t) :
    t.pal = s.pal ∧ t.pix = s.pix ∧ t.gridW = s.gridW ∧ t.gridH = s.gridH ∧ t.ie = s.ie ∧ t.ovr = s.ovr ∧
      t.pend = s.pend ∧ t.rst = s.rst ∧ t.agenda = s.agenda ∧ t.replies = s.replies ∧ t.draws = s.draws ∧
      t.bufDraw = s.bufDraw ∧ t.busyLeft = s.busyLeft := by
  rcases exec_cases i s with ⟨u, hu, e⟩ | ⟨f, -, e⟩ <;> obtain rfl := Host.Outcome.next.inj (e.symm.trans h)
  · exact ⟨hu.pal, hu.pix, hu.gridW, hu.gridH, hu.ie, hu.ovr, hu.pend, hu.rst, hu.agenda, hu.replies, hu.draws,
      hu.bufDraw, hu.busyLeft⟩
  · exact ⟨rfl, rfl, rfl, rfl, rfl, rfl, rfl, rfl, rfl, rfl, rfl, rfl, rfl⟩

/-- Settles O35: a fault's entry touches none of these fields; a result touches its own command's only. -/
theorem commandsTouchOnlyTheirResults : Obligations.CommandsTouchOnlyTheirResults := by
  intro i s t h
  refine ⟨exec_fixed h, ?_⟩
  rcases exec_result h with ⟨e, rfl⟩ | ⟨u, hu, rfl⟩
  · exact ⟨fun _ => rfl, fun _ _ _ => ⟨rfl, rfl⟩, fun _ _ => ⟨rfl, rfl, rfl⟩⟩
  · exact ⟨hu.idx, hu.background, hu.buffers⟩

/-! ### The palette (10_state.md R21) -/

theorem complete_pal {s t : State} (h : complete s = .next t) : t.pal = s.pal := by
  rcases complete_cases s with ⟨-, -, e⟩ | ⟨i, -, e⟩ <;> rw [e] at h
  · obtain rfl := Host.Outcome.next.inj h
    rfl
  · exact (exec_fixed h).1

theorem WriteEffect.pal {s u : State} {v : Word} {r : Region} (h : WriteEffect s v r u) : u.pal = s.pal := by
  cases h <;> rfl

theorem hostStep_pal (s : State) (e : HostEvent) : (s.hostStep e).pal = s.pal := by
  cases e with
  | read addr n =>
    obtain ⟨r, d, h⟩ := hostRead_frame s addr n
    rw [State.hostStep, h]
  | write addr n v =>
    rcases hostWrite_cases s addr n v with ⟨-, u, hu, h⟩ | ⟨-, h⟩ <;> rw [State.hostStep, h]
    · exact hu.pal
    · rfl
  | rstLine b =>
    rcases driveRst_cases s b with ⟨-, -, h⟩ | ⟨-, h⟩ <;> rw [State.hostStep, h]
    rfl

/-- Settles O53, by cases on what the step does. -/
theorem paletteNeverChanges : Obligations.PaletteNeverChanges := by
  intro s t ht
  rcases step_cases s with ⟨-, e⟩ | ⟨-, -, e⟩ | ⟨ev, rest, -, -, e⟩ <;> rw [e] at ht
  · exact complete_pal ht
  · obtain rfl := Host.Outcome.next.inj ht
    rfl
  · obtain rfl := Host.Outcome.next.inj ht
    exact hostStep_pal _ ev

/-! ### The flags (10_state.md R29, R39) -/

theorem irq_eq_true_iff (s : State) : s.irq = true ↔ s.ie = true ∧ (s.done = true ∨ s.fault = true) := by
  rw [State.irq, Bool.and_eq_true, Bool.or_eq_true]

/-- Settles O39. -/
theorem interruptLineFollowsDoneAndFault : Obligations.InterruptLineFollowsDoneAndFault := irq_eq_true_iff

/-- The bits of `STATUS`: the five flags from bit 0 on, and 0 above them. -/
theorem getLsbD_statusWord (s : State) (i : Nat) :
    s.statusWord.getLsbD i = [s.busy, s.done, s.fault, s.ovr, s.bgValid].getD i false := by
  simp only [State.statusWord, BitVec.getLsbD_setWidth, BitVec.getLsbD_append, BitVec.getLsbD_ofBool]
  match i with
  | 0 | 1 | 2 | 3 | 4 => simp
  | n + 5 => simp

/-- Settles O51. -/
theorem statusWordHasTheFlags : Obligations.StatusWordHasTheFlags := by
  intro s
  simp only [getLsbD_statusWord]
  refine ⟨rfl, rfl, rfl, rfl, rfl, fun i hi => ?_⟩
  exact List.getD_eq_default _ _ hi

/-! ### The writes of the registers (10_state.md R29, R30, R33) -/

/-- A write that is no bus error has its region's effect and answers OK. -/
theorem hostStep_write {s : State} {addr : HostAddr} {n : Nat} {r : Region} (v : Word) (hrst : s.rst = false)
    (hsize : sizeFits addr n = true) (hr : regionOf addr = r) (hw : writable r = true) :
    s.hostStep (.write addr n v) = (s.writeRegion v r).reply .writeOk := by
  subst hr
  have ha : writeAllowed s addr n = true := by simp [writeAllowed, hrst, hsize, hw]
  exact if_pos ha

/-- Ones clear DONE and OVR. -/
theorem clearStatus_eq (s : State) (v : Word) :
    s.clearStatus v =
      { s with
        done := if v.getLsbD 1 then false else s.done
        ovr := if v.getLsbD 3 then false else s.ovr } := by
  have and_not (b c : Bool) : (b && !c) = if c then false else b := by cases c <;> simp
  rw [State.clearStatus, and_not, and_not]

theorem writeCtrl_of_noReset {s : State} {v : Word} (h : v.getLsbD 31 = false) : s.writeCtrl v = s.setIe v := by
  rw [State.writeCtrl, h, if_neg Bool.false_ne_true]

theorem writeRegion_gridW_idle {s : State} (h : s.busy = false) (v : Word) :
    s.writeRegion v (.reg .gridW) = s.setGridW v := by
  simp [State.writeRegion, h]

theorem writeRegion_gridH_idle {s : State} (h : s.busy = false) (v : Word) :
    s.writeRegion v (.reg .gridH) = s.setGridH v := by
  simp [State.writeRegion, h]

/-- Settles O49: each write by its region's effect. -/
theorem registerWritesDoWhatTheRulesSay : Obligations.RegisterWritesDoWhatTheRulesSay := by
  intro s v hrst
  refine ⟨?status, fun h31 => ?ctrl, fun hidle => ⟨?gridW, ?gridH⟩⟩
  case status =>
    rw [hostStep_write (r := .reg .status) v hrst (by decide) (by decide) rfl, State.writeRegion, clearStatus_eq]
    rfl
  case ctrl =>
    rw [hostStep_write (r := .reg .ctrl) v hrst (by decide) (by decide) rfl, State.writeRegion,
      writeCtrl_of_noReset h31]
    rfl
  case gridW =>
    rw [hostStep_write (r := .reg .gridW) v hrst (by decide) (by decide) rfl, writeRegion_gridW_idle hidle,
      ← BitVec.setWidth_eq_extractLsb' (by decide)]
    rfl
  case gridH =>
    rw [hostStep_write (r := .reg .gridH) v hrst (by decide) (by decide) rfl, writeRegion_gridH_idle hidle,
      ← BitVec.setWidth_eq_extractLsb' (by decide)]
    rfl

/-! ### The reset (10_state.md R40, 70_reset_and_hazards.md R171) -/

/-- A reset leaves the buffers of an idle block. -/
theorem performReset_buffers_idle {s : State} (h : s.busy = false) (o : Nat) :
    s.performReset.bmpByte o = s.bmpByte o ∧ s.performReset.scrByte o = s.scrByte o ∧
      s.performReset.colByte o = s.colByte o := by
  simp [State.bmpByte, State.scrByte, State.colByte, h]

/-- A reset that strikes a busy block leaves a new draw in every byte of its buffers. -/
theorem performReset_buffers_busy {s : State} (h : s.busy = true) (o : Nat) :
    s.performReset.bmpByte o = Config.storedByte s.draws (0x10000 + o) ∧
      s.performReset.scrByte o = Config.storedByte s.draws (0x12000 + o) ∧
      s.performReset.colByte o = Config.storedByte s.draws (0x12400 + o) := by
  simp [State.bmpByte, State.scrByte, State.colByte, h]

/-- Settles O41. -/
theorem resetLeavesTheResetValues : Obligations.ResetLeavesTheResetValues := by
  intro s
  obtain ⟨hstatus, -⟩ := registersAtReset_performReset s
  exact ⟨⟨hstatus, rfl, rfl, rfl, rfl, rfl, rfl, rfl, rfl⟩, rfl, fun _ => rfl, performReset_buffers_idle,
    performReset_buffers_busy⟩

end Sys2Proof.Machine

/-! PROOF. The host's bus (O43 to O48, O52, O8, O20): where each memory, register and palette entry stands in the
address map, what a read of each region answers, what a write does to an idle and to a busy block, what a pending
command can count on, and the addresses of samples. -/

namespace Sys2Proof.Machine

/-! ### The address map (20_memory.md R51, R52) -/

/-- The region of an address given as a number. -/
theorem regionOf_ofNat {a : Nat} (h : a < 0x20000) : regionOf (BitVec.ofNat 17 a) = regionAt a := by
  rw [regionOf, BitVec.toNat_ofNat, Nat.mod_eq_of_lt h]

theorem regionOf_ofNat_pix {a : Nat} (h : a < 64000) : regionOf (BitVec.ofNat 17 a) = .pix a := by
  rw [regionOf_ofNat (by omega), regionAt, if_pos h]

theorem regionOf_ofNat_bmp {o : Nat} (h : o < 8000) : regionOf (BitVec.ofNat 17 (0x10000 + o)) = .bmp o := by
  rw [regionOf_ofNat (by omega), regionAt]
  simp (disch := omega) only [if_pos, if_neg, Nat.add_sub_cancel_left]

theorem regionOf_ofNat_scr {c : Nat} (h : c < 1000) : regionOf (BitVec.ofNat 17 (0x12000 + c)) = .scr c := by
  rw [regionOf_ofNat (by omega), regionAt]
  simp (disch := omega) only [if_pos, if_neg, Nat.add_sub_cancel_left]

theorem regionOf_ofNat_col {c : Nat} (h : c < 1000) : regionOf (BitVec.ofNat 17 (0x12400 + c)) = .col c := by
  rw [regionOf_ofNat (by omega), regionAt]
  simp (disch := omega) only [if_pos, if_neg, Nat.add_sub_cancel_left]

theorem regionOf_ofNat_palRom (i : Color) : regionOf (BitVec.ofNat 17 (0x13040 + 4 * i.toNat)) = .palRom i := by
  have hi := i.isLt
  rw [regionOf_ofNat (by omega), regionAt]
  simp (disch := omega) only [if_pos, if_neg, Nat.add_sub_cancel_left, Nat.mul_div_cancel_left]
  rw [BitVec.ofNat_toNat, BitVec.setWidth_eq]

/-- The memories, which take transactions of one byte (20_memory.md R52). -/
def Region.isMemory : Region → Bool
  | .pix _ | .bmp _ | .scr _ | .col _ => true
  | .reg _ | .palRom _ | .unmapped => false

theorem sizeFits_byte {addr : HostAddr} (h : (regionOf addr).isMemory = true) : sizeFits addr 1 = true := by
  unfold sizeFits
  cases hg : regionOf addr with
  | pix | bmp | scr | col => rfl
  | reg | palRom | unmapped => simp [hg, Region.isMemory] at h

theorem sizeFits_ofNat_palRom (i : Color) : sizeFits (BitVec.ofNat 17 (0x13040 + 4 * i.toNat)) 4 = true := by
  have hi := i.isLt
  simp only [sizeFits, regionOf_ofNat_palRom, BitVec.toNat_ofNat, beq_self_eq_true, Bool.true_and, beq_iff_eq]
  omega

theorem regionOf_mapped {addr : HostAddr} {n : Nat} (h : sizeFits addr n = true) : regionOf addr ≠ .unmapped := by
  intro hg
  simp [sizeFits, hg] at h

/-! ### Reads (20_memory.md R54, R56) -/

/-- What a pending command may be writing: a read of it gives any value while the block is busy (20_memory.md R54). -/
def Region.isResult : Region → Bool
  | .bmp _ | .scr _ | .col _ | .reg .bg | .reg .idx => true
  | _ => false

/-- The word that a mapped region holds, which a read returns wherever it does not return a free value. -/
def State.wordAt (s : State) : Region → Word
  | .pix a => (s.pixByte a).setWidth 32
  | .bmp o => (s.bmpByte o).setWidth 32
  | .scr c => (s.scrByte c).setWidth 32
  | .col c => (s.colByte c).setWidth 32
  | .reg .cmd => 0#32
  | .reg .status => s.statusWord
  | .reg .ctrl => s.ctrlWord
  | .reg .err => s.err.setWidth 32
  | .reg .errInfo => s.errInfo
  | .reg .bg => s.bg.setWidth 32
  | .reg .idx => s.idx.setWidth 32
  | .reg .gridW => s.gridW.setWidth 32
  | .reg .gridH => s.gridH.setWidth 32
  | .reg .id => Config.idWord
  | .palRom i => palWord s.pal i
  | .unmapped => 0#32

theorem wordAt_reply (s : State) (r : Reply) (g : Region) : (s.reply r).wordAt g = s.wordAt g := by
  cases g with
  | reg q => cases q <;> rfl
  | pix | bmp | scr | col | palRom | unmapped => rfl

theorem readBuffer_idle {s : State} (h : s.busy = false) (v : Byte) :
    s.readBuffer v = s.reply (.readOk (v.setWidth 32)) := by
  simp [State.readBuffer, h]

theorem readBuffer_busy {s : State} (h : s.busy = true) (v : Byte) :
    s.readBuffer v = (s.reply (.readOk ((Config.anyByte s.draws).setWidth 32))).nextDraw := by
  simp [State.readBuffer, h]

theorem readResult_idle {s : State} (h : s.busy = false) (k : Color) :
    s.readResult k = s.reply (.readOk (k.setWidth 32)) := by
  simp [State.readResult, h]

theorem readResult_busy {s : State} (h : s.busy = true) (k : Color) :
    s.readResult k = (s.reply (.readOk ((Config.anyColor s.draws).setWidth 32))).nextDraw := by
  simp [State.readResult, h]

/-- A read returns the word its region holds, unless the region is a result and the block is busy. -/
theorem readRegion_eq_wordAt {s : State} {g : Region} (hg : g ≠ .unmapped)
    (h : g.isResult = false ∨ s.busy = false) : s.readRegion g = s.reply (.readOk (s.wordAt g)) := by
  have idle (hres : g.isResult = true) : s.busy = false := h.resolve_left (by simp [hres])
  cases g with
  | bmp o => exact readBuffer_idle (idle rfl) _
  | scr c => exact readBuffer_idle (idle rfl) _
  | col c => exact readBuffer_idle (idle rfl) _
  | reg q =>
    cases q with
    | bg => exact readResult_idle (idle rfl) _
    | idx => exact readResult_idle (idle rfl) _
    | cmd | status | ctrl | err | errInfo | gridW | gridH | id => rfl
  | pix | palRom => rfl
  | unmapped => exact absurd rfl hg

/-- A read that is no bus error has its region's response. -/
theorem hostStep_read {s : State} {addr : HostAddr} {n : Nat} {g : Region} (hrst : s.rst = false)
    (hsize : sizeFits addr n = true) (hg : regionOf addr = g) : s.hostStep (.read addr n) = s.readRegion g := by
  subst hg
  have ha : readAllowed s addr n = true := by simp [readAllowed, hrst, hsize]
  exact if_pos ha

theorem hostStep_read_wordAt {s : State} {addr : HostAddr} {n : Nat} {g : Region} (hrst : s.rst = false)
    (hsize : sizeFits addr n = true) (hg : regionOf addr = g) (h : g.isResult = false ∨ s.busy = false) :
    s.hostStep (.read addr n) = s.reply (.readOk (s.wordAt g)) := by
  rw [hostStep_read hrst hsize hg, readRegion_eq_wordAt (hg ▸ regionOf_mapped hsize) h]

/-- A read of one byte of a memory. -/
theorem hostStep_readByte {s : State} {addr : HostAddr} {g : Region} (hrst : s.rst = false) (hg : regionOf addr = g)
    (hmem : g.isMemory = true) (h : g.isResult = false ∨ s.busy = false) :
    s.hostStep (.read addr 1) = s.reply (.readOk (s.wordAt g)) :=
  hostStep_read_wordAt hrst (sizeFits_byte (hg ▸ hmem)) hg h

/-- Settles O43: each memory at its place in the address map. -/
theorem memoryReadsReturnTheBytes : Obligations.MemoryReadsReturnTheBytes := by
  intro s hrst
  refine ⟨fun a ha => ?pix, fun hidle => ⟨fun o ho => ?bmp, fun c hc => ?scr, fun c hc => ?col⟩⟩
  case pix => exact hostStep_readByte hrst (regionOf_ofNat_pix ha) rfl (.inl rfl)
  case bmp => exact hostStep_readByte hrst (regionOf_ofNat_bmp ho) rfl (.inr hidle)
  case scr => exact hostStep_readByte hrst (regionOf_ofNat_scr hc) rfl (.inr hidle)
  case col => exact hostStep_readByte hrst (regionOf_ofNat_col hc) rfl (.inr hidle)

theorem ctrlWord_eq (s : State) : s.ctrlWord = if s.ie then 1#32 else 0#32 := by
  rw [State.ctrlWord]
  cases s.ie <;> rfl

/-- Settles O44: each register at its place in the address map. -/
theorem registerReadsReturnTheWords : Obligations.RegisterReadsReturnTheWords := by
  intro s hrst
  have word (addr : HostAddr) (q : Reg) (hsize : sizeFits addr 4 = true) (hq : regionOf addr = .reg q)
      (h : (Region.reg q).isResult = false ∨ s.busy = false) :
      s.hostStep (.read addr 4) = s.reply (.readOk (s.wordAt (.reg q))) := hostStep_read_wordAt hrst hsize hq h
  refine ⟨word _ .cmd (by decide) (by decide) (.inl rfl), word _ .status (by decide) (by decide) (.inl rfl), ?ctrl,
    word _ .err (by decide) (by decide) (.inl rfl), word _ .errInfo (by decide) (by decide) (.inl rfl),
    fun hidle => ⟨word _ .bg (by decide) (by decide) (.inr hidle),
      word _ .idx (by decide) (by decide) (.inr hidle)⟩,
    word _ .gridW (by decide) (by decide) (.inl rfl), word _ .gridH (by decide) (by decide) (.inl rfl),
    word _ .id (by decide) (by decide) (.inl rfl), fun i => ?palRom⟩
  case ctrl =>
    rw [← ctrlWord_eq]
    exact word _ .ctrl (by decide) (by decide) (.inl rfl)
  case palRom => exact hostStep_read_wordAt hrst (sizeFits_ofNat_palRom i) (regionOf_ofNat_palRom i) (.inl rfl)

/-- An address of one of the three output buffers, by its index in the buffer. -/
theorem buffer_address {a : Nat}
    (h : (0x10000 ≤ a ∧ a < 0x11F40) ∨ (0x12000 ≤ a ∧ a < 0x123E8) ∨ (0x12400 ≤ a ∧ a < 0x127E8)) :
    ∃ i, regionOf (BitVec.ofNat 17 a) = .bmp i ∨ regionOf (BitVec.ofNat 17 a) = .scr i ∨
      regionOf (BitVec.ofNat 17 a) = .col i := by
  rcases h with ⟨hl, hu⟩ | ⟨hl, hu⟩ | ⟨hl, hu⟩ <;> obtain ⟨i, rfl⟩ := Nat.exists_eq_add_of_le hl
  · exact ⟨i, .inl (regionOf_ofNat_bmp (by omega))⟩
  · exact ⟨i, .inr (.inl (regionOf_ofNat_scr (by omega)))⟩
  · exact ⟨i, .inr (.inr (regionOf_ofNat_col (by omega)))⟩

/-- Settles O45: a busy block answers a read of a result with a draw. -/
theorem busyResultReadsAreFree : Obligations.BusyResultReadsAreFree := by
  intro s hrst hbusy
  refine ⟨fun a ha => ?_, ?_⟩
  · obtain ⟨i, hg | hg | hg⟩ := buffer_address ha <;>
      rw [hostStep_read hrst (sizeFits_byte (by rw [hg]; rfl)) hg] <;>
      exact readBuffer_busy hbusy _
  · rintro a (rfl | rfl)
    · rw [hostStep_read (g := .reg .bg) hrst (by decide) (by decide)]
      exact readResult_busy hbusy _
    · rw [hostStep_read (g := .reg .idx) hrst (by decide) (by decide)]
      exact readResult_busy hbusy _

/-- A rejected read answers a bus error with data 0. -/
theorem hostStep_read_rejected {s : State} {addr : HostAddr} {n : Nat} (h : readAllowed s addr n = false) :
    s.hostStep (.read addr n) = s.reply (.readBusErr 0#32) := by
  simp [State.hostStep, State.hostRead, h]

/-- An idle block answers a read with a response that does not depend on the responses before it. -/
theorem hostStep_read_idle {s : State} (h : s.busy = false) (addr : HostAddr) (n : Nat) :
    ∃ r, s.hostStep (.read addr n) = s.reply r ∧ (s.reply r).hostStep (.read addr n) = (s.reply r).reply r := by
  cases ha : readAllowed s addr n with
  | false => exact ⟨_, hostStep_read_rejected ha, hostStep_read_rejected ha⟩
  | true =>
    obtain ⟨hrst, hsize⟩ : s.rst = false ∧ sizeFits addr n = true := by simpa [readAllowed] using ha
    refine ⟨_, hostStep_read_wordAt hrst hsize rfl (.inr h), ?_⟩
    rw [hostStep_read_wordAt (s := s.reply _) hrst hsize rfl (.inr h), wordAt_reply]

/-- Settles O46. -/
theorem idleReadsAreIdempotent : Obligations.IdleReadsAreIdempotent := by
  intro s addr n
  refine ⟨hostRead_frame s addr n, fun hidle => ?_⟩
  obtain ⟨r, hfirst, hsecond⟩ := hostStep_read_idle hidle addr n
  refine ⟨r, hfirst, ?_⟩
  rw [hfirst, hsecond]
  simp [State.reply]

/-! ### Writes (20_memory.md R55) -/

theorem pixByte_writePix (s : State) (a : Nat) (v : Byte) (b : Nat) :
    (s.writePix a v).pixByte b = if b = a then v else s.pixByte b := by
  simp only [State.pixByte, State.writePix, Memory.find_put]
  split <;> rfl

theorem writeRegion_pix_idle {s : State} (h : s.busy = false) (v : Word) (a : Nat) :
    s.writeRegion v (.pix a) = s.writePix a (v.setWidth 8) := by
  simp [State.writeRegion, h]

theorem hostStep_writePixel {s : State} {a : Nat} (v : Word) (hrst : s.rst = false) (ha : a < 64000) :
    s.hostStep (.write (BitVec.ofNat 17 a) 1 v) = (s.writeRegion v (.pix a)).reply .writeOk :=
  have hg := regionOf_ofNat_pix ha
  hostStep_write v hrst (sizeFits_byte (by rw [hg]; rfl)) hg rfl

/-- Settles O47. -/
theorem pixelWritesAreStored : Obligations.PixelWritesAreStored := by
  intro s a v hrst hidle ha
  have stored (b : Nat) := pixByte_writePix s a (v.setWidth 8) b
  refine ⟨(s.writePix a (v.setWidth 8)).reply .writeOk, ?_, rfl, ?_, fun b hb => ?_⟩
  · rw [hostStep_writePixel v hrst ha, writeRegion_pix_idle hidle]
  · exact (stored a).trans (if_pos rfl)
  · exact (stored b).trans (if_neg hb)

/-- The regions whose writes a busy block drops (20_memory.md R55). -/
def Region.isDroppedWhileBusy : Region → Bool
  | .pix _ | .reg .cmd | .reg .gridW | .reg .gridH => true
  | _ => false

theorem writeRegion_dropped {s : State} {g : Region} (hbusy : s.busy = true) (hf : s.fault = false) (v : Word)
    (hg : g.isDroppedWhileBusy = true) : s.writeRegion v g = s.overrun := by
  cases g with
  | pix a => exact if_pos hbusy
  | reg q =>
    cases q with
    | cmd => simp [State.writeRegion, State.offer, hf, hbusy]
    | gridW => exact if_pos hbusy
    | gridH => exact if_pos hbusy
    | status | ctrl | err | errInfo | bg | idx | id => exact absurd hg Bool.false_ne_true
  | bmp | scr | col | palRom | unmapped => exact absurd hg Bool.false_ne_true

/-- Settles O48. -/
theorem writesWhileBusyAreDropped : Obligations.WritesWhileBusyAreDropped := by
  intro s v hrst hbusy hf
  refine ⟨fun a ha => ?_, ?_⟩
  · rw [hostStep_writePixel v hrst ha, writeRegion_dropped hbusy hf v rfl]
    rfl
  · have word (addr : HostAddr) (q : Reg) (hsize : sizeFits addr 4 = true) (hq : regionOf addr = .reg q)
        (hw : writable (.reg q) = true) (hd : (Region.reg q).isDroppedWhileBusy = true) :
        s.hostStep (.write addr 4 v) = s.overrun.reply .writeOk := by
      rw [hostStep_write v hrst hsize hq hw, writeRegion_dropped hbusy hf v hd]
    rintro a (rfl | rfl | rfl)
    · exact word _ .cmd (by decide) (by decide) rfl rfl
    · exact word _ .gridW (by decide) (by decide) rfl rfl
    · exact word _ .gridH (by decide) (by decide) rfl rfl

/-! ### The order of effects (20_memory.md R58) -/

theorem coreMoves_eq_false {s : State} {e : HostEvent} {rest : List HostEvent} (ha : s.agenda = e :: rest)
    (h : s.busy = false ∨ s.busyLeft ≠ 0) : s.coreMoves = false := by
  rcases h with h | h <;> simp [State.coreMoves, ha, h]

/-- Settles O8. -/
theorem inputsTakeEffectInOrder : Obligations.InputsTakeEffectInOrder := by
  intro s e rest ha h
  rw [step, advance, coreMoves_eq_false ha h, if_neg Bool.false_ne_true, ha]
  rfl

/-- A completion leaves the block idle. -/
theorem complete_idle {s t : State} (h : complete s = .next t) : t.busy = false := by
  rcases complete_cases s with ⟨-, -, e⟩ | ⟨i, -, e⟩ <;> rw [e] at h
  · obtain rfl := Host.Outcome.next.inj h
    rfl
  · rcases exec_result h with ⟨f, rfl⟩ | ⟨u, -, rfl⟩ <;> rfl

/-- What a write can change in a block that is busy before it and after it. -/
theorem WriteEffect.of_busy {s u : State} {v : Word} {g : Region} (e : WriteEffect s v g u) (hs : s.busy = true)
    (hu : u.busy = true) : ∃ d o i, u = { s with done := d, ovr := o, ie := i } := by
  have notIdle (hidle : s.busy = false) : False := by simp [hs] at hidle
  cases e with
  | none => exact ⟨s.done, s.ovr, s.ie, rfl⟩
  | dropped => exact ⟨s.done, true, s.ie, rfl⟩
  | status => exact ⟨_, _, s.ie, rfl⟩
  | enable => exact ⟨s.done, s.ovr, _, rfl⟩
  | reset => simp at hu
  | pixel _ _ hidle => exact (notIdle hidle).elim
  | accepted _ hidle => exact (notIdle hidle).elim
  | width _ hidle => exact (notIdle hidle).elim
  | height _ hidle => exact (notIdle hidle).elim

/-- What an input can change in a block that is busy before it and after it. -/
theorem hostStep_of_busy {s : State} {e : HostEvent} (hs : s.busy = true) (ht : (s.hostStep e).busy = true) :
    ∃ d o i l rs n, s.hostStep e = { s with done := d, ovr := o, ie := i, rst := l, replies := rs, draws := n } := by
  cases e with
  | read addr n =>
    obtain ⟨r, d, h⟩ := hostRead_frame s addr n
    exact ⟨s.done, s.ovr, s.ie, s.rst, _, d, h⟩
  | write addr n v =>
    rcases hostWrite_cases s addr n v with ⟨-, u, hu, h⟩ | ⟨-, h⟩
    · rw [State.hostStep, h] at ht
      obtain ⟨d, o, i, rfl⟩ := hu.of_busy hs ht
      exact ⟨d, o, i, s.rst, _, s.draws, h⟩
    · exact ⟨s.done, s.ovr, s.ie, s.rst, _, s.draws, h⟩
  | rstLine b =>
    rcases driveRst_cases s b with ⟨-, -, h⟩ | ⟨-, h⟩
    · rw [State.hostStep, h] at ht
      simp at ht
    · exact ⟨s.done, s.ovr, s.ie, b, s.replies, s.draws, h⟩

/-- Settles O52: a completion ends the command; no input changes what it reads without ending it. -/
theorem pendingCommandSeesAStableState : Obligations.PendingCommandSeesAStableState := by
  intro s t hs ht hbusy
  rcases step_cases s with ⟨-, e⟩ | ⟨-, -, e⟩ | ⟨ev, rest, -, -, e⟩ <;> rw [e] at ht
  · simp [complete_idle ht] at hbusy
  · obtain rfl := Host.Outcome.next.inj ht
    exact ⟨rfl, rfl, rfl, rfl, rfl, rfl, rfl, rfl, rfl, rfl, rfl⟩
  · obtain rfl := Host.Outcome.next.inj ht
    obtain ⟨d, o, i, l, rs, n, h⟩ :=
      hostStep_of_busy (s := { s with agenda := rest, busyLeft := s.busyLeft - 1 }) hs hbusy
    rw [State.takeEvent, h]
    exact ⟨rfl, rfl, rfl, rfl, rfl, rfl, rfl, rfl, rfl, rfl, rfl⟩

/-! ### The addresses of samples (20_memory.md R57) -/

theorem sampleAddr_even (c i : Nat) : sampleAddr c i % 2 = 0 := by
  rw [sampleAddr_eq]
  omega

/-- The grid row of a sample: its column is below the number of columns. -/
theorem sampleAddr_div_columns (c i : Nat) : sampleAddr c i / 320 = c / 40 * 8 + i / 4 := by
  rw [sampleAddr_eq]
  omega

/-- The grid column of a sample. -/
theorem sampleAddr_mod_columns (c i : Nat) : sampleAddr c i % 320 = c % 40 * 8 + i % 4 * 2 := by
  rw [sampleAddr_eq]
  omega

/-- Row and column of a sample each give a part of the cell and a part of the sample's index. -/
theorem sampleAddr_injective {c i d j : Nat} (hi : i < 32) (hj : j < 32) (h : sampleAddr c i = sampleAddr d j) :
    c = d ∧ i = j := by
  have row : c / 40 * 8 + i / 4 = d / 40 * 8 + j / 4 := by
    rw [← sampleAddr_div_columns, ← sampleAddr_div_columns, h]
  have column : c % 40 * 8 + i % 4 * 2 = d % 40 * 8 + j % 4 * 2 := by
    rw [← sampleAddr_mod_columns, ← sampleAddr_mod_columns, h]
  omega

/-- Settles O20. -/
theorem sampleAddressesAreTheRules : Obligations.SampleAddressesAreTheRules := fun c i hc hi =>
  ⟨sampleAddr_eq c i, sampleAddr_lt hc hi, sampleAddr_even c i, fun _ _ _ hj => sampleAddr_injective hi hj⟩

end Sys2Proof.Machine

/-! PROOF. The encoding (O1 to O5): the masks of the opcode map as conditions on fields, what the decoder answers for
each `op`, and the fields of a decoded and of an encoded word. They are the same fields, which is why each of the two
functions undoes the other. -/

namespace Sys2Proof

/-! ### The masks of the opcode map (30_encoding.md R71) -/

/-- A mask of the bits from `n` up clears the bits below. -/
theorem toNat_and_upperMask {v : Nat} (w : BitVec v) (n : Nat) :
    (w &&& BitVec.allOnes v <<< n).toNat = w.toNat / 2 ^ n * 2 ^ n := by
  have hle : w.toNat / 2 ^ n * 2 ^ n ≤ w.toNat := Nat.div_mul_le_self _ _
  rw [← BitVec.shiftLeft_ushiftRight, BitVec.toNat_shiftLeft, BitVec.toNat_ushiftRight, Nat.shiftRight_eq_div_pow,
    Nat.shiftLeft_eq, Nat.mod_eq_of_lt (hle.trans_lt w.isLt)]

theorem toNat_and_matchMask (w : Word) : (w &&& 0xFF000000#32).toNat = w.toNat / 16777216 * 16777216 :=
  toNat_and_upperMask w 24

theorem toNat_and_setbgMask (w : Word) : (w &&& 0xFFFFFFF0#32).toNat = w.toNat / 16 * 16 := toNat_and_upperMask w 4

theorem toNat_and_qcellMask (w : Word) : (w &&& 0xFFFFFC00#32).toNat = w.toNat / 1024 * 1024 :=
  toNat_and_upperMask w 10

/-- The mask of MATCH keeps `op` and `z`. -/
theorem and_matchMask_eq_iff {w : Word} :
    w &&& 0xFF000000#32 = 0x10000000#32 ↔ opField w = 1#4 ∧ zField w = 0#4 := by
  simp only [← BitVec.toNat_inj, toNat_and_matchMask, toNat_opField, toNat_zField, BitVec.toNat_ofNat]
  omega

/-- The mask of SETBG keeps `op`, `z` and the bits of `arg` that SETBG does not use. -/
theorem and_setbgMask_eq_iff {w : Word} :
    w &&& 0xFFFFFFF0#32 = 0x20000000#32 ↔ opField w = 2#4 ∧ zField w = 0#4 ∧ w.extractLsb' 4 20 = 0#20 := by
  simp only [← BitVec.toNat_inj, toNat_and_setbgMask, toNat_opField, toNat_zField, toNat_field, BitVec.toNat_ofNat]
  omega

/-- The mask of QCELL keeps `op`, `z` and the bits of `arg` that QCELL does not use. -/
theorem and_qcellMask_eq_iff {w : Word} :
    w &&& 0xFFFFFC00#32 = 0x40000000#32 ↔ opField w = 4#4 ∧ zField w = 0#4 ∧ w.extractLsb' 10 14 = 0#14 := by
  simp only [← BitVec.toNat_inj, toNat_and_qcellMask, toNat_opField, toNat_zField, toNat_field, BitVec.toNat_ofNat]
  omega

/-! ### The decoder, one equation for each `op` (30_encoding.md R73) -/

theorem opField_cases (w : Word) :
    opField w = 0#4 ∨ opField w = 1#4 ∨ opField w = 2#4 ∨ opField w = 3#4 ∨ opField w = 4#4 ∨ opField w = 5#4 ∨
      6 ≤ (opField w).toNat := by
  generalize opField w = o
  revert o
  decide

section
variable {w : Word}

theorem decodeWord_of_z_ne (hz : zField w ≠ 0#4) : decodeWord w = .error .reservedZ := by simp [decodeWord, hz]

theorem decodeWord_of_op_nop (hz : zField w = 0#4) (ho : opField w = 0#4) :
    decodeWord w = if argField w = 0#24 then .ok .nop else .error .nonzeroArg := by simp [decodeWord, hz, ho]

theorem decodeWord_of_op_match (hz : zField w = 0#4) (ho : opField w = 1#4) :
    decodeWord w = .ok (.matchRgb (w.extractLsb' 16 8) (w.extractLsb' 8 8) (w.extractLsb' 0 8)) := by
  simp [decodeWord, hz, ho]

theorem decodeWord_of_op_setbg (hz : zField w = 0#4) (ho : opField w = 2#4) :
    decodeWord w = if w.extractLsb' 4 20 = 0#20 then .ok (.setbg (w.extractLsb' 0 4)) else .error .nonzeroArg := by
  simp [decodeWord, hz, ho]

theorem decodeWord_of_op_bgsel (hz : zField w = 0#4) (ho : opField w = 3#4) :
    decodeWord w = if argField w = 0#24 then .ok .bgsel else .error .nonzeroArg := by simp [decodeWord, hz, ho]

theorem decodeWord_of_op_qcell (hz : zField w = 0#4) (ho : opField w = 4#4) :
    decodeWord w =
      if w.extractLsb' 10 14 = 0#14 then
        if (w.extractLsb' 0 10).toNat < Config.cellCount then .ok (.qcell (w.extractLsb' 0 10)) else .error .cellRange
      else .error .nonzeroArg := by
  simp [decodeWord, hz, ho]

theorem decodeWord_of_op_convert (hz : zField w = 0#4) (ho : opField w = 5#4) :
    decodeWord w = if argField w = 0#24 then .ok .convert else .error .nonzeroArg := by simp [decodeWord, hz, ho]

theorem decodeWord_of_op_reserved (hz : zField w = 0#4) (ho : 6 ≤ (opField w).toNat) :
    decodeWord w = .error .reservedOp := by
  have hne : ∀ n : Nat, n < 6 → opField w ≠ BitVec.ofNat 4 n := by
    intro n hn e
    rw [e, BitVec.toNat_ofNat] at ho
    omega
  simp [decodeWord, hz, hne]

end

/-! ### The fields of a command's word -/

theorem Instr.wellFormed_qcell_iff {c : BitVec 10} : (Instr.qcell c).wellFormed = true ↔ c.toNat < 1000 :=
  decide_eq_true_iff

/-- What the `arg` field of a command's word holds: the operands at their places and 0 elsewhere
(30_encoding.md R72). -/
def Instr.ArgIn (w : Word) : Instr → Prop
  | .nop | .bgsel | .convert => argField w = 0#24
  | .matchRgb r g b => r = w.extractLsb' 16 8 ∧ g = w.extractLsb' 8 8 ∧ b = w.extractLsb' 0 8
  | .setbg k => w.extractLsb' 4 20 = 0#20 ∧ k = w.extractLsb' 0 4
  | .qcell c => w.extractLsb' 10 14 = 0#14 ∧ c = w.extractLsb' 0 10

/-- The word that `encode` writes is the one with the command's `op`, `z` = 0 and the command's `arg`. -/
theorem encode_eq_iff {i : Instr} {w : Word} :
    encode i = w ↔ opField w = i.opNumber ∧ zField w = 0#4 ∧ i.ArgIn w := by
  cases i with
  | nop | bgsel | convert =>
    simp only [encode, Instr.opNumber, Instr.ArgIn, ← BitVec.toNat_inj, toNat_opField, toNat_zField, toNat_argField,
      BitVec.toNat_ofNat]
    omega
  | matchRgb | setbg | qcell =>
    simp only [toNat_encode_matchRgb, toNat_encode_setbg, toNat_encode_qcell, Instr.opNumber, Instr.ArgIn,
      ← BitVec.toNat_inj, toNat_opField, toNat_zField, toNat_field, BitVec.toNat_ofNat]
    omega

/-! ### The decoder against the encoder -/

/-- The fields of a word that decodes are those of the command it decodes to. -/
theorem fields_of_decodeWord {w : Word} {i : Instr} (h : decodeWord w = .ok i) :
    opField w = i.opNumber ∧ zField w = 0#4 ∧ i.ArgIn w := by
  by_cases hz : zField w = 0#4
  case neg => simp [decodeWord_of_z_ne hz] at h
  rcases opField_cases w with ho | ho | ho | ho | ho | ho | ho
  · rw [decodeWord_of_op_nop hz ho] at h
    split at h <;> cases h
    exact ⟨ho, hz, ‹_›⟩
  · rw [decodeWord_of_op_match hz ho] at h
    cases h
    exact ⟨ho, hz, rfl, rfl, rfl⟩
  · rw [decodeWord_of_op_setbg hz ho] at h
    split at h <;> cases h
    exact ⟨ho, hz, ‹_›, rfl⟩
  · rw [decodeWord_of_op_bgsel hz ho] at h
    split at h <;> cases h
    exact ⟨ho, hz, ‹_›⟩
  · rw [decodeWord_of_op_qcell hz ho] at h
    split_ifs at h with harg
    cases h
    exact ⟨ho, hz, harg, rfl⟩
  · rw [decodeWord_of_op_convert hz ho] at h
    split at h <;> cases h
    exact ⟨ho, hz, ‹_›⟩
  · simp [decodeWord_of_op_reserved hz ho] at h

/-- A word with the fields of a legal command decodes to it. -/
theorem decodeWord_of_fields {w : Word} {i : Instr} (hi : i.wellFormed = true) (ho : opField w = i.opNumber)
    (hz : zField w = 0#4) (harg : i.ArgIn w) : decodeWord w = .ok i := by
  cases i with
  | nop => exact (decodeWord_of_op_nop hz ho).trans (if_pos harg)
  | matchRgb r g b =>
    obtain ⟨rfl, rfl, rfl⟩ := harg
    exact decodeWord_of_op_match hz ho
  | setbg k =>
    obtain ⟨hrest, rfl⟩ := harg
    rw [decodeWord_of_op_setbg hz ho, if_pos hrest]
  | bgsel => exact (decodeWord_of_op_bgsel hz ho).trans (if_pos harg)
  | qcell c =>
    obtain ⟨hrest, rfl⟩ := harg
    rw [decodeWord_of_op_qcell hz ho, if_pos hrest, if_pos (of_decide_eq_true hi)]
  | convert => exact (decodeWord_of_op_convert hz ho).trans (if_pos harg)

/-- The decoder in terms of a word's fields. -/
theorem decodeWord_eq_ok_iff_fields {w : Word} {i : Instr} :
    decodeWord w = .ok i ↔ i.wellFormed = true ∧ opField w = i.opNumber ∧ zField w = 0#4 ∧ i.ArgIn w :=
  ⟨fun h => ⟨wellFormed_of_decodeWord h, fields_of_decodeWord h⟩,
    fun ⟨hi, ho, hz, harg⟩ => decodeWord_of_fields hi ho hz harg⟩

/-- The decoder is the inverse of the encoder on the legal commands. -/
theorem decodeWord_eq_ok_iff {w : Word} {i : Instr} :
    decodeWord w = .ok i ↔ i.wellFormed = true ∧ encode i = w := by
  rw [decodeWord_eq_ok_iff_fields, encode_eq_iff]

/-- Settles O1: the word of a legal command is a word that decodes to it. -/
theorem decodeInvertsEncode : Obligations.DecodeInvertsEncode := fun _ hi => decodeWord_eq_ok_iff.2 ⟨hi, rfl⟩

/-- Settles O2: the other direction of the same equivalence. -/
theorem decodedWordIsItsOwnEncoding : Obligations.DecodedWordIsItsOwnEncoding := fun _ _ => decodeWord_eq_ok_iff.1

/-! ### The rows of the opcode map (30_encoding.md R71) -/

/-- The rows whose mask is all ones: the word must be the row's `match`, the only word of its command. -/
theorem decodeWord_eq_ok_iff_fullMask {w : Word} {i : Instr} (hi : i.wellFormed = true) :
    decodeWord w = .ok i ↔ w &&& 0xFFFFFFFF#32 = encode i := by
  rw [decodeWord_eq_ok_iff, and_iff_right hi, show w &&& 0xFFFFFFFF#32 = w from BitVec.and_allOnes, eq_comm]

theorem decodeWord_eq_matchRgb_iff {w : Word} {r g b : Byte} :
    decodeWord w = .ok (.matchRgb r g b) ↔
      w &&& 0xFF000000#32 = 0x10000000#32 ∧
        r = w.extractLsb' 16 8 ∧ g = w.extractLsb' 8 8 ∧ b = w.extractLsb' 0 8 := by
  rw [decodeWord_eq_ok_iff_fields, and_matchMask_eq_iff]
  simp only [Instr.wellFormed, Instr.opNumber, Instr.ArgIn, true_and, and_assoc]

theorem decodeWord_eq_setbg_iff {w : Word} {k : Color} :
    decodeWord w = .ok (.setbg k) ↔ w &&& 0xFFFFFFF0#32 = 0x20000000#32 ∧ k = w.extractLsb' 0 4 := by
  rw [decodeWord_eq_ok_iff_fields, and_setbgMask_eq_iff]
  simp only [Instr.wellFormed, Instr.opNumber, Instr.ArgIn, true_and, and_assoc]

theorem decodeWord_eq_qcell_iff {w : Word} {c : BitVec 10} :
    decodeWord w = .ok (.qcell c) ↔
      w &&& 0xFFFFFC00#32 = 0x40000000#32 ∧ c = w.extractLsb' 0 10 ∧ c.toNat < 1000 := by
  rw [decodeWord_eq_ok_iff_fields, and_qcellMask_eq_iff, Instr.wellFormed_qcell_iff, and_comm]
  simp only [Instr.opNumber, Instr.ArgIn, and_assoc]

/-- The decoder refuses a word of a reserved `op`, whatever its `z`. -/
theorem decodeWord_error_of_op_reserved {w : Word} (ho : 6 ≤ (opField w).toNat) :
    ∃ why, decodeWord w = .error why := by
  by_cases hz : zField w = 0#4
  · exact ⟨_, decodeWord_of_op_reserved hz ho⟩
  · exact ⟨_, decodeWord_of_z_ne hz⟩

/-- Settles O3: one row each. -/
theorem decodeFollowsMaskAndMatch : Obligations.DecodeFollowsMaskAndMatch := fun _ =>
  ⟨decodeWord_eq_ok_iff_fullMask rfl, fun _ _ _ => decodeWord_eq_matchRgb_iff, fun _ => decodeWord_eq_setbg_iff,
    decodeWord_eq_ok_iff_fullMask rfl, fun _ => decodeWord_eq_qcell_iff, decodeWord_eq_ok_iff_fullMask rfl,
    decodeWord_error_of_op_reserved⟩

/-! ### The illegal words (30_encoding.md R74) -/

/-- A test of the decoder refuses a word where the test fails, and where the tests after it refuse the word. -/
theorem exists_error_ite {p : Prop} [Decidable p] {d : Except Illegal Instr} {e : Illegal} :
    (∃ why, (if p then d else .error e) = .error why) ↔ ¬p ∨ ∃ why, d = .error why := by
  split <;> simp [*]

/-- Settles O4: by the decoder's answer for each `op`. -/
theorem illegalWordsAreThoseListed : Obligations.IllegalWordsAreThoseListed := by
  intro w
  simp only [← opField.eq_def, ← zField.eq_def, ← argField.eq_def]
  by_cases hz : zField w = 0#4
  case neg => simp [decodeWord_of_z_ne hz, hz]
  rcases opField_cases w with ho | ho | ho | ho | ho | ho | ho
  · simp [decodeWord_of_op_nop hz ho, exists_error_ite, hz, ho]
  · simp [decodeWord_of_op_match hz ho, hz, ho]
  · simp [decodeWord_of_op_setbg hz ho, exists_error_ite, hz, ho]
  · simp [decodeWord_of_op_bgsel hz ho, exists_error_ite, hz, ho]
  · simp [decodeWord_of_op_qcell hz ho, exists_error_ite, hz, ho]
    rfl
  · simp [decodeWord_of_op_convert hz ho, exists_error_ite, hz, ho]
  · simp [decodeWord_of_op_reserved hz ho, ho]

/-- Settles O5: the first six words are those that `encode` writes. -/
theorem decodeOfWrittenOutWords : Obligations.DecodeOfWrittenOutWords :=
  ⟨decodeInvertsEncode .nop rfl, decodeInvertsEncode (.matchRgb 0xC8#8 0x64#8 0x32#8) rfl,
    decodeInvertsEncode (.setbg 11#4) rfl, decodeInvertsEncode .bgsel rfl, decodeInvertsEncode (.qcell 41#10) rfl,
    decodeInvertsEncode .convert rfl, decodeWord_of_z_ne (by decide), by decide⟩

end Sys2Proof

/-! PROOF. The Palette Matcher (O15 to O17): what the distance is, then what the scan over the palette finds. -/

namespace Sys2Proof.Machine

/-! ### The distance (40_palette_matcher.md R90) -/

/-- The model's natural number is the integer square: no difference is cut off at 0. -/
theorem intCast_diffSquare (x y : Byte) : (diffSquare x y : Int) = ((x.toNat : Int) - y.toNat) ^ 2 := by
  rw [diffSquare, Int.toNat_of_nonneg (mul_self_nonneg _), sq]

/-- Two bytes differ by at most 255, whose square is 65025. -/
theorem diffSquare_le (x y : Byte) : diffSquare x y ≤ 65025 := by
  have habs : |(x.toNat : Int) - y.toNat| ≤ 255 := abs_le.2 (by omega)
  have hsq : ((x.toNat : Int) - y.toNat) ^ 2 ≤ 255 ^ 2 := sq_le_sq' (abs_le.1 habs).1 (abs_le.1 habs).2
  rw [← intCast_diffSquare] at hsq
  omega

theorem diffSquare_comm (x y : Byte) : diffSquare x y = diffSquare y x := by
  zify
  rw [intCast_diffSquare, intCast_diffSquare, sub_sq_comm]

theorem diffSquare_eq_zero_iff {x y : Byte} : diffSquare x y = 0 ↔ x = y := by
  zify
  rw [intCast_diffSquare, sq_eq_zero_iff, sub_eq_zero, Nat.cast_inj, BitVec.toNat_inj]

theorem intCast_distance (p q : Rgb) :
    (distance p q : Int) = ((p.r.toNat : Int) - q.r.toNat) ^ 2 + ((p.g.toNat : Int) - q.g.toNat) ^ 2 +
      ((p.b.toNat : Int) - q.b.toNat) ^ 2 := by
  simp only [distance, Nat.cast_add, intCast_diffSquare]

/-- The bound is three times that of one component, so the distance fits 18 bits. -/
theorem distance_le (p q : Rgb) : distance p q ≤ 195075 := by
  have hr := diffSquare_le p.r q.r
  have hg := diffSquare_le p.g q.g
  have hb := diffSquare_le p.b q.b
  rw [distance]
  omega

theorem distance_comm (p q : Rgb) : distance p q = distance q p := by
  rw [distance, diffSquare_comm p.r, diffSquare_comm p.g, diffSquare_comm p.b, distance]

/-- A sum of squares is 0 only where each of them is. -/
theorem distance_eq_zero_iff {p q : Rgb} : distance p q = 0 ↔ p = q := by
  obtain ⟨r, g, b⟩ := p
  obtain ⟨r', g', b'⟩ := q
  simp only [distance, Nat.add_eq_zero_iff, diffSquare_eq_zero_iff, and_assoc, Rgb.mk.injEq]

/-- Settles O17, each part from its own for one component. -/
theorem distanceIsAnExactSquaredMetric : Obligations.DistanceIsAnExactSquaredMetric := fun p q =>
  ⟨intCast_distance p q, distance_le p q, distance_comm p q, distance_eq_zero_iff⟩

/-! ### The nearest palette entry (40_palette_matcher.md R91) -/

/-- The scanned list holds the distance of each entry at the position of its index. -/
theorem getElem?_distances (pal : Palette) (rgb : Rgb) (k : Color) :
    (pal.toList.map fun p => distance p rgb)[k.toNat]? = some (distance (pal.entry k) rgb) := by
  simp [Palette.entry, k.isLt]

theorem distances_ne_nil (pal : Palette) (rgb : Rgb) : (pal.toList.map fun p => distance p rgb) ≠ [] :=
  List.ne_nil_of_length_pos (by simp)

/-- A position in the scanned list is a colour index, so nothing is lost where it becomes one. -/
theorem toNat_nearest (pal : Palette) (rgb : Rgb) :
    (nearest pal rgb).toNat = firstMin (pal.toList.map fun p => distance p rgb) := by
  have hlt := firstMin_lt (distances_ne_nil pal rgb)
  rw [List.length_map, Vector.length_toList] at hlt
  exact Nat.mod_eq_of_lt hlt

/-- No entry is nearer than the one found, and those before it are farther. -/
theorem nearest_spec (pal : Palette) (rgb : Rgb) :
    (∀ j : Color, distance (pal.entry (nearest pal rgb)) rgb ≤ distance (pal.entry j) rgb) ∧
      ∀ j < nearest pal rgb, distance (pal.entry (nearest pal rgb)) rgb < distance (pal.entry j) rgb := by
  obtain ⟨w, hw, hle, hlt⟩ := firstMin_spec (distances_ne_nil pal rgb)
  rw [← toNat_nearest] at hw hlt
  obtain rfl := Option.some.inj ((getElem?_distances pal rgb _).symm.trans hw)
  exact ⟨fun j => hle _ _ (getElem?_distances pal rgb j), fun j hj => hlt _ _ hj (getElem?_distances pal rgb j)⟩

/-- Settles O15, by what the scan finds. -/
theorem matchFindsTheNearestColor : Obligations.MatchFindsTheNearestColor := fun s r g b =>
  ⟨nearest s.pal ⟨r, g, b⟩, exec_eq_finish (.matchRgb r g b) s, nearest_spec s.pal ⟨r, g, b⟩⟩

/-! ### A palette's own entries (40_palette_matcher.md R93) -/

theorem entry_injective {pal : Palette} (h : pal.Legal) : Function.Injective pal.entry := by
  intro j k hjk
  have hpos : j.toNat = k.toNat := (h.getElem_inj_iff).1 hjk
  exact BitVec.eq_of_toNat_eq hpos

/-- The entry found is at distance 0, as the entry itself is, and entries of a legal palette differ. -/
theorem nearest_entry {pal : Palette} (h : pal.Legal) (k : Color) : nearest pal (pal.entry k) = k := by
  obtain ⟨hle, -⟩ := nearest_spec pal (pal.entry k)
  have hself : distance (pal.entry k) (pal.entry k) = 0 := distance_eq_zero_iff.2 rfl
  have hzero : distance (pal.entry (nearest pal (pal.entry k))) (pal.entry k) = 0 :=
    Nat.eq_zero_of_le_zero ((hle k).trans_eq hself)
  exact entry_injective h (distance_eq_zero_iff.1 hzero)

/-- Settles O16, by the injectivity of a legal palette. -/
theorem paletteEntryMatchesItself : Obligations.PaletteEntryMatchesItself := fun s k h =>
  ⟨_, exec_eq_finish (.matchRgb (s.pal.entry k).r (s.pal.entry k).g (s.pal.entry k).b) s, nearest_entry h k⟩

end Sys2Proof.Machine

/-! PROOF. The Cell Quantizer (O24 to O29) and QCELL (O21, O22, O30): what the slots and the codes of an image are, how
its bytes pack them, what QCELL answers in each case, and what the outputs then show. -/

namespace Sys2Proof.Machine

/-! ### The slots (41_cell_quantizer.md R102, R103) -/

section
variable {pal : Palette} {S : List Color} {bg : Color}

@[simp] theorem length_quantCell_slot : (quantCell pal S bg).slot.length = 4 := by simp [quantCell]

/-- `NSEL` is the number of candidates, at most 3. -/
theorem quantCell_nsel : (quantCell pal S bg).nsel = min 3 (rankedColors S bg).length := by
  simp [quantCell, retained]

/-- The retained colours are the background and one for each used slot. -/
theorem length_retained : (retained S bg).length = (quantCell pal S bg).nsel + 1 := by
  simp [quantCell, retained]

theorem nsel_le_three : (quantCell pal S bg).nsel ≤ 3 := by
  rw [quantCell_nsel]
  exact min_le_left _ _

theorem getElem?_slot {s : Nat} (hs : s < 4) : (quantCell pal S bg).slot[s]? = some ((retained S bg).getD s bg) := by
  simp [quantCell, slotColor, hs]

/-- A slot in use holds the retained colour of its number. -/
theorem getElem?_slot_used {s : Nat} (hs : s ≤ (quantCell pal S bg).nsel) :
    (quantCell pal S bg).slot[s]? = (retained S bg)[s]? := by
  have hlen : s < (retained S bg).length := by rw [length_retained (pal := pal)]; omega
  rw [getElem?_slot (hs.trans_lt (Nat.lt_succ_of_le nsel_le_three)), List.getD_eq_getElem?_getD,
    List.getElem?_eq_getElem hlen, Option.getD_some]

/-- `getElem?_slot_used` in the spelling of the statements, where a slot outside the four would read as 0. -/
theorem getElem?_retained {s : Nat} (hs : s ≤ (quantCell pal S bg).nsel) :
    (retained S bg)[s]? = some ((quantCell pal S bg).slot.getD s 0#4) := by
  rw [← getElem?_slot_used hs, List.getD_eq_getElem?_getD,
    getElem?_slot (hs.trans_lt (Nat.lt_succ_of_le nsel_le_three)), Option.getD_some]

theorem getD_slot_unused {s : Nat} (hs : (quantCell pal S bg).nsel < s) (h3 : s ≤ 3) :
    (quantCell pal S bg).slot.getD s 0#4 = bg := by
  have hlen : (retained S bg).length ≤ s := by rw [length_retained (pal := pal)]; omega
  rw [List.getD_eq_getElem?_getD, getElem?_slot (by omega), List.getD_eq_getElem?_getD, List.getElem?_eq_none hlen]
  rfl

theorem getD_slot_zero : (quantCell pal S bg).slot.getD 0 0#4 = bg :=
  (Option.some.inj (getElem?_retained (Nat.zero_le _))).symm

/-- `SLOT[s+1]` is `RANK[s]` where that slot is used. -/
theorem getElem?_rankedColors {s : Nat} (hs : s < (quantCell pal S bg).nsel) :
    (rankedColors S bg)[s]? = some ((quantCell pal S bg).slot.getD (s + 1) 0#4) := by
  have h3 : s < 3 := hs.trans_le nsel_le_three
  rw [← getElem?_retained (Nat.succ_le_of_lt hs), retained, List.getElem?_cons_succ, List.getElem?_take_of_lt h3]

/-- Of two ranked colours, the earlier one ranks before the later one. -/
theorem ranksBefore_of_getElem? {s u : Nat} {a b : Color} (hsu : s < u) (ha : (rankedColors S bg)[s]? = some a)
    (hb : (rankedColors S bg)[u]? = some b) : ranksBefore S a b = true := by
  obtain ⟨hs, rfl⟩ := List.getElem?_eq_some_iff.1 ha
  obtain ⟨hu, rfl⟩ := List.getElem?_eq_some_iff.1 hb
  exact List.pairwise_iff_getElem.1 (rankedColors_pairwise S bg) s u hs hu hsu

/-- A candidate that no used slot holds stands in the ranking after the colours of the used slots, of which there are
then three. -/
theorem rank_of_leftOut {k : Color} (hk : k ∈ S) (hbg : k ≠ bg)
    (hout : ∀ s, 1 ≤ s → s ≤ (quantCell pal S bg).nsel → (quantCell pal S bg).slot.getD s 0#4 ≠ k) :
    (quantCell pal S bg).nsel = 3 ∧ ∃ u, 3 ≤ u ∧ (rankedColors S bg)[u]? = some k := by
  obtain ⟨u, hu⟩ := List.getElem?_of_mem (mem_rankedColors.2 ⟨hbg, hk⟩)
  have hlen : u < (rankedColors S bg).length := (List.getElem?_eq_some_iff.1 hu).1
  have hafter : (quantCell pal S bg).nsel ≤ u := by
    by_contra hlt
    have hslot := (getElem?_rankedColors (not_le.1 hlt)).symm.trans hu
    exact hout (u + 1) (by omega) (by omega) (Option.some.inj hslot)
  have hnsel : (quantCell pal S bg).nsel = 3 := by rw [quantCell_nsel] at hafter ⊢; omega
  exact ⟨hnsel, u, hnsel ▸ hafter, hu⟩

end

/-- Settles O24: slot `s + 1` is `RANK[s]`, and the ranking is in the order of R102. -/
theorem slotsHoldTheTopRankedColors : Obligations.SlotsHoldTheTopRankedColors := by
  intro pal S bg q before
  have hrank : ∀ s, 1 ≤ s → s ≤ q.nsel → (rankedColors S bg)[s - 1]? = some (q.slot.getD s 0#4) := by
    intro s h1 hs
    obtain ⟨s, rfl⟩ := Nat.exists_eq_add_of_le' h1
    exact getElem?_rankedColors hs
  refine ⟨length_quantCell_slot, nsel_le_three, getD_slot_zero, fun s h1 hs => ?_, fun s u h1 hsu hu => ?_,
    fun k hk hbg hout => ?_, fun s hs h3 => getD_slot_unused hs h3⟩
  · exact (mem_rankedColors.1 (List.mem_of_getElem? (hrank s h1 hs))).symm
  · exact ranksBefore_iff.1 (ranksBefore_of_getElem? (by omega) (hrank s h1 (by omega)) (hrank u (by omega) hu))
  · obtain ⟨hnsel, u, hu, hk⟩ := rank_of_leftOut hk hbg hout
    exact ⟨hnsel, fun s h1 h3 => ranksBefore_iff.1
      (ranksBefore_of_getElem? (by omega) (hrank s h1 (hnsel ▸ h3)) hk)⟩

/-! ### The codes (41_cell_quantizer.md R104, R105, R110) -/

section
variable {pal : Palette} {S : List Color} {bg : Color}

theorem getElem?_code {i : Nat} {k : Color} (hi : S[i]? = some k) :
    (quantCell pal S bg).code[i]? = some (codeOf pal (retained S bg) k) := by
  simp [quantCell, hi]

/-- A retained colour's code is its position: no colour is retained twice. -/
theorem codeOf_retained {s : Nat} {k : Color} (h : (retained S bg)[s]? = some k) :
    codeOf pal (retained S bg) k = BitVec.ofNat 2 s := by
  obtain ⟨hs, rfl⟩ := List.getElem?_eq_some_iff.1 h
  rw [codeOf, if_pos (List.getElem_mem hs), (nodup_retained S bg).idxOf_getElem s hs]

/-- The distances that the fallback of R105 compares, one for each slot in use. -/
def slotDistances (pal : Palette) (S : List Color) (bg k : Color) : List Nat :=
  (retained S bg).map fun j => distance (pal.entry k) (pal.entry j)

theorem slotDistances_ne_nil {k : Color} : slotDistances pal S bg k ≠ [] := by simp [slotDistances, retained]

theorem getElem?_slotDistances {k : Color} {s : Nat} (hs : s ≤ (quantCell pal S bg).nsel) :
    (slotDistances pal S bg k)[s]? =
      some (distance (pal.entry k) (pal.entry ((quantCell pal S bg).slot.getD s 0#4))) := by
  simp only [slotDistances, List.getElem?_map, getElem?_retained hs, Option.map_some]

theorem firstMin_slotDistances_le {k : Color} : firstMin (slotDistances pal S bg k) ≤ (quantCell pal S bg).nsel := by
  have hlt := firstMin_lt (slotDistances_ne_nil (pal := pal) (S := S) (bg := bg) (k := k))
  rw [slotDistances, List.length_map, length_retained (pal := pal)] at hlt
  exact Nat.le_of_lt_succ hlt

/-- An excluded colour's code is the first of the nearest slots; as a slot number it fits the code's two bits. -/
theorem toNat_codeOf_excluded {k : Color} (h : k ∉ retained S bg) :
    (codeOf pal (retained S bg) k).toNat = firstMin (slotDistances pal S bg k) := by
  have hle := firstMin_slotDistances_le (pal := pal) (S := S) (bg := bg) (k := k)
  have h3 := nsel_le_three (pal := pal) (S := S) (bg := bg)
  rw [codeOf, if_neg h]
  exact Nat.mod_eq_of_lt (a := firstMin (slotDistances pal S bg k)) (by omega)

/-- Within the budget of three colours every candidate is ranked among the first three, so every colour present is
retained. -/
theorem mem_retained_of_budget (h : (S.eraseDups.filter fun k => k != bg).length ≤ 3) {k : Color} (hk : k ∈ S) :
    k ∈ retained S bg := by
  have hsub : rankedColors S bg ⊆ S.eraseDups.filter fun k => k != bg := fun x hx => by
    obtain ⟨hbg, hx⟩ := mem_rankedColors.1 hx
    exact List.mem_filter.2 ⟨List.mem_eraseDups.2 hx, bne_iff_ne.2 hbg⟩
  have hlen := (List.subperm_of_subset (nodup_rankedColors S bg) hsub).length_le
  rw [retained, List.take_of_length_le (hlen.trans h), List.mem_cons]
  exact (eq_or_ne k bg).imp_right fun hbg => mem_rankedColors.2 ⟨hbg, hk⟩

end

/-- Settles O25: the slot holds the retained colour of its number, whose code is that number. -/
theorem retainedColorsKeepTheirSlot : Obligations.RetainedColorsKeepTheirSlot := by
  intro pal S bg i s k hi hs hslot
  rw [getElem?_code hi, codeOf_retained ((getElem?_slot_used hs).symm.trans hslot)]

/-- Settles O26, by what the scan of the slots' distances finds. -/
theorem excludedColorsGoToTheNearestSlot : Obligations.ExcludedColorsGoToTheNearestSlot := by
  intro pal S bg i k hi hout
  have hk : k ∉ retained S bg := fun hmem => by
    obtain ⟨s, hs⟩ := List.getElem?_of_mem hmem
    have hlen := (List.getElem?_eq_some_iff.1 hs).1
    rw [length_retained (pal := pal)] at hlen
    have hused : s ≤ (quantCell pal S bg).nsel := Nat.le_of_lt_succ hlen
    exact hout s hused (Option.some.inj ((getElem?_retained hused).symm.trans hs))
  obtain ⟨w, hw, hle, hlt⟩ := firstMin_spec (slotDistances_ne_nil (pal := pal) (S := S) (bg := bg) (k := k))
  rw [getElem?_slotDistances firstMin_slotDistances_le] at hw
  obtain rfl := Option.some.inj hw
  refine ⟨_, getElem?_code hi, ?_⟩
  rw [toNat_codeOf_excluded hk]
  exact ⟨firstMin_slotDistances_le, fun s hs =>
    ⟨hle s _ (getElem?_slotDistances hs), fun hlow => hlt s _ hlow (getElem?_slotDistances hs)⟩⟩

/-- Settles O27: every colour present is retained, and its code is the number of its slot. -/
theorem cellsWithinTheBudgetAreLossless : Obligations.CellsWithinTheBudgetAreLossless := by
  intro pal S bg h i k hi
  obtain ⟨s, hs⟩ := List.getElem?_of_mem (mem_retained_of_budget h (List.mem_of_getElem? hi))
  have hlen := (List.getElem?_eq_some_iff.1 hs).1
  rw [length_retained (pal := pal)] at hlen
  have hcode : (BitVec.ofNat 2 s).toNat = s :=
    Nat.mod_eq_of_lt (hlen.trans_le (Nat.succ_le_succ nsel_le_three))
  refine ⟨BitVec.ofNat 2 s, by rw [getElem?_code hi, codeOf_retained hs], ?_⟩
  rw [hcode, getElem?_slot_used (Nat.le_of_lt_succ hlen), hs]

/-! ### The bytes of an image (41_cell_quantizer.md R106, R107, R110) -/

/-- A packed byte as a number: four codes, the first in the top two bits. -/
theorem toNat_packRow (code : List Code) (r : Nat) :
    (packRow code r).toNat = (code.getD (4 * r) 0#2).toNat * 64 + (code.getD (4 * r + 1) 0#2).toNat * 16 +
      (code.getD (4 * r + 2) 0#2).toNat * 4 + (code.getD (4 * r + 3) 0#2).toNat := by
  simp only [packRow, toNat_join]
  omega

section
variable {pal : Palette} {S : List Color} {bg : Color}

theorem getD_bm {r : Nat} (hr : r < 8) :
    (quantCell pal S bg).bm.getD r 0#8 = packRow (quantCell pal S bg).code r := by
  simp [quantCell, hr]

/-- A slot below 4 in the spelling in which `quantCell` packs it. -/
theorem slotColor_eq_getD {s : Nat} (hs : s < 4) :
    slotColor (retained S bg) bg s = (quantCell pal S bg).slot.getD s 0#4 := by
  rw [List.getD_eq_getElem?_getD, getElem?_slot hs]
  rfl

theorem quantCell_scr :
    (quantCell pal S bg).scr = (quantCell pal S bg).slot.getD 1 0#4 ++ (quantCell pal S bg).slot.getD 2 0#4 := by
  rw [← slotColor_eq_getD (by omega), ← slotColor_eq_getD (by omega)]
  rfl

theorem quantCell_col : (quantCell pal S bg).col = ((quantCell pal S bg).slot.getD 3 0#4).setWidth 8 := by
  rw [← slotColor_eq_getD (by omega)]
  rfl

theorem toNat_quantCell_scr :
    (quantCell pal S bg).scr.toNat =
      ((quantCell pal S bg).slot.getD 1 0#4).toNat * 16 + ((quantCell pal S bg).slot.getD 2 0#4).toNat := by
  rw [quantCell_scr]
  exact toNat_join _ _

theorem toNat_quantCell_col :
    (quantCell pal S bg).col.toNat = ((quantCell pal S bg).slot.getD 3 0#4).toNat := by
  rw [quantCell_col, BitVec.toNat_setWidth_of_le (by omega)]

end

/-- Settles O28: the bytes of the image as the numbers they pack. -/
theorem imageBytesPackSlotsAndCodes : Obligations.ImageBytesPackSlotsAndCodes := fun pal S bg =>
  ⟨toNat_quantCell_scr, toNat_quantCell_col, List.length_map _, length_quantCell_bm pal S bg,
    fun r hr => by rw [getD_bm hr, toNat_packRow]⟩

theorem rankedColors_replicate (n : Nat) (bg : Color) : rankedColors (List.replicate n bg) bg = [] :=
  List.eq_nil_iff_forall_not_mem.2 fun _ hk =>
    (mem_rankedColors.1 hk).1 (List.eq_of_mem_replicate (mem_rankedColors.1 hk).2)

/-- Settles O29: nothing is ranked, so slots 1 to 3 hold the background, and the background's own code is 0. -/
theorem backgroundOnlyCell : Obligations.BackgroundOnlyCell := by
  intro pal bg q
  have hnsel : q.nsel = 0 := by
    rw [show q.nsel = _ from quantCell_nsel, rankedColors_replicate]
    rfl
  have hslot : ∀ s, 1 ≤ s → s ≤ 3 → q.slot.getD s 0#4 = bg := fun s h1 h3 =>
    getD_slot_unused (hnsel.trans_lt h1) h3
  have hcode : q.code = List.replicate 32 0#2 := by
    rw [show q.code = _ from List.map_replicate, codeOf_retained (s := 0) rfl]
  have hbm : q.bm = List.replicate 8 0#8 := by
    rw [show q.bm = (List.range' 0 8).map (packRow q.code) from rfl, hcode]
    decide
  refine ⟨hnsel, hcode, hbm, ?_, ?_⟩
  · rw [show q.scr.toNat = _ from toNat_quantCell_scr, hslot 1 (by omega) (by omega), hslot 2 (by omega) (by omega)]
    omega
  · rw [show q.col.toNat = _ from toNat_quantCell_col, hslot 3 (by omega) (by omega)]

/-! ### QCELL (41_cell_quantizer.md R109, 60_exceptions.md R155) -/

theorem shapeOk_iff {s : State} : s.shapeOk = true ↔ s.gridW = 320#16 ∧ s.gridH = 200#16 := by
  simp [State.shapeOk]

/-- Where QCELL's three checks pass, its result is that of its cell's image. -/
theorem quantizeCell_of_checks {s : State} {c : Nat} (hc : c < 1000) (hs : s.shapeOk = true)
    (hb : s.bgValid = true) : quantizeCell s c = (cellImage s s.bg c).map (s.writeCell c) := by
  have hrange : ¬Config.cellCount ≤ c := not_le.2 hc
  simp only [quantizeCell, hrange, hs, hb]
  cases cellImage s s.bg c <;> rfl

theorem cellImage_of_valid {s : State} {bg : Color} {c : Nat} (h : s.validPixels (sampleAddrs c)) :
    cellImage s bg c = .ok (quantCell s.pal (s.samples c) bg) := by
  rw [cellImage, readColors_eq_ok.2 ⟨h, rfl⟩]
  rfl

/-- The first invalid sample of a cell is the fault of its image. -/
theorem cellImage_of_firstInvalid {s : State} {bg : Color} {c i : Nat} (hi : i < 32)
    (hbefore : ∀ j < i, (s.pixByte (sampleAddr c j)).toNat ≤ 15) (hbad : 15 < (s.pixByte (sampleAddr c i)).toNat) :
    cellImage s bg c = .error (pixelTrap (s.pixByte (sampleAddr c i)) (sampleAddr c i)) := by
  have hsplit : sampleAddrs c =
      (List.range i).map (sampleAddr c) ++ sampleAddr c i :: (List.range' (i + 1) (31 - i)).map (sampleAddr c) := by
    have hlen : Config.sampleCount = i + (31 - i + 1) := by simp only [Config.sampleCount]; omega
    rw [← List.map_cons, ← List.map_append, sampleAddrs, hlen, ← List.range'_succ, List.range_eq_range',
      ← List.range'_append_1, Nat.zero_add]
  rw [cellImage, readColors_eq_error.2 ⟨_, _, _, hsplit, fun a ha => ?_, hbad, rfl⟩]
  obtain ⟨j, hj, rfl⟩ := List.mem_map.1 ha
  exact hbefore j (List.mem_range.1 hj)

theorem validPixels_sampleAddrs_iff {s : State} {c : Nat} :
    s.validPixels (sampleAddrs c) ↔ ∀ i < 32, (s.pixByte (sampleAddr c i)).toNat ≤ 15 := by
  simp [State.validPixels, mem_sampleAddrs, Config.sampleCount]

/-- `samples` as the statements write them. -/
theorem samples_eq_map_range (s : State) (c : Nat) :
    s.samples c = (List.range 32).map fun i => (s.pixByte (sampleAddr c i)).setWidth 4 := by
  rw [State.samples, State.pixColors, sampleAddrs, List.map_map, List.range_eq_range']
  rfl

/-- QCELL of a cell that is ready for it: the writes of the cell's image and the flags of completion. -/
theorem exec_qcell_of_ready {s : State} {c : BitVec 10} (hc : c.toNat < 1000) (hw : s.gridW = 320#16)
    (hh : s.gridH = 200#16) (hb : s.bgValid = true)
    (hv : ∀ i < 32, (s.pixByte (sampleAddr c.toNat i)).toNat ≤ 15) :
    exec (.qcell c) s =
      .next (s.writeCell c.toNat (quantCell s.pal (s.samples c.toNat) s.bg)).markDone := by
  rw [exec_eq_finish, commandOutcome, quantizeCell_of_checks hc (shapeOk_iff.2 ⟨hw, hh⟩) hb,
    cellImage_of_valid (validPixels_sampleAddrs_iff.2 hv)]
  rfl

/-- Settles O21: the writes of one cell, and what they leave. -/
theorem qcellWritesItsCell : Obligations.QcellWritesItsCell := by
  intro s c hc hw hh hb hv
  refine ⟨_, exec_qcell_of_ready hc hw hh hb hv, rfl, ?_, fun o ho => ?_, fun d hd => ⟨?_, ?_⟩⟩
  · rw [← samples_eq_map_range]
    exact holdsImage_writeCell s c.toNat (length_quantCell_bm _ _ _)
  · refine (bmpByte_writeCell s _ _ o).trans (if_neg ?_)
    rw [length_quantCell_bm]
    omega
  · exact (scrByte_writeCell s _ _ d).trans (if_neg hd)
  · exact (colByte_writeCell s _ _ d).trans (if_neg hd)

/-- A fault of QCELL's checks or reads is entered on the state before it. -/
theorem exec_qcell_of_error {s : State} {c : BitVec 10} {e : Trap} (h : quantizeCell s c.toNat = .error e) :
    exec (.qcell c) s = .next (s.faultEntry e) := by
  rw [exec_eq_finish, commandOutcome, h, finish]

/-- Settles O22, one clause for each check. -/
theorem qcellFaultsInOrder : Obligations.QcellFaultsInOrder := by
  intro s c
  refine ⟨fun hc => ?range, fun hc hshape => ?shape, fun hc hw hh hb => ?background,
    fun hc hw hh hb i hi hbefore hbad => ?pixel⟩
  case range =>
    exact exec_qcell_of_error (e := illegalTrap s) (if_pos hc)
  case shape =>
    have hs : s.shapeOk = false := by rw [← Bool.not_eq_true, shapeOk_iff]; exact hshape
    exact exec_qcell_of_error (e := shapeTrap s) ((if_neg (not_le.2 hc)).trans (by rw [hs]; rfl))
  case background =>
    have hs : s.shapeOk = true := shapeOk_iff.2 ⟨hw, hh⟩
    exact exec_qcell_of_error (e := bgUnsetTrap s) ((if_neg (not_le.2 hc)).trans (by rw [hs, hb]; rfl))
  case pixel =>
    refine exec_qcell_of_error (e := pixelTrap _ _) ?_
    rw [quantizeCell_of_checks hc (shapeOk_iff.2 ⟨hw, hh⟩) hb, cellImage_of_firstInvalid hi hbefore hbad]
    rfl

/-! ### What the outputs show (41_cell_quantizer.md R111) -/

/-- The two bits of a packed byte that R111 reads for its sample `j` are that sample's code. -/
theorem toNat_packRow_bits (code : List Code) (r : Nat) {j : Nat} (hj : j < 4) :
    (packRow code r).toNat / 2 ^ (6 - 2 * j) % 4 = (code.getD (4 * r + j) 0#2).toNat := by
  have h0 := (code.getD (4 * r) 0#2).isLt
  have h1 := (code.getD (4 * r + 1) 0#2).isLt
  have h2 := (code.getD (4 * r + 2) 0#2).isLt
  have h3 := (code.getD (4 * r + 3) 0#2).isLt
  rw [toNat_packRow]
  interval_cases j
  · rw [Nat.add_zero (4 * r)]
    omega
  all_goals omega

/-- Where a cell's bytes hold an image, its codes are the stored ones. -/
theorem State.holdsImage.storedCode {s : State} {c i : Nat} {pal : Palette} {S : List Color} {bg : Color}
    (h : s.holdsImage c (quantCell pal S bg)) (hi : i < 32) :
    s.storedCode c i = ((quantCell pal S bg).code.getD i 0#2).toNat := by
  obtain ⟨hbm, -, -⟩ := h
  rw [State.storedCode, hbm (i / 4) (by omega), getD_bm (by omega), toNat_packRow_bits _ _ (by omega), Nat.div_add_mod]

theorem extractLsb'_setWidth_color (k : Color) : (k.setWidth 8).extractLsb' 0 4 = k := by
  revert k
  decide

/-- Where a cell's bytes hold an image against `BG`, each sample shows the colour of the slot that its code names. -/
theorem State.holdsImage.shownColor {s : State} {c i : Nat} {pal : Palette} {S : List Color}
    (h : s.holdsImage c (quantCell pal S s.bg)) (hi : i < 32) :
    s.shownColor c i =
      (quantCell pal S s.bg).slot.getD ((quantCell pal S s.bg).code.getD i 0#2).toNat 0#4 := by
  have hcode := h.storedCode hi
  obtain ⟨-, hscr, hcol⟩ := h
  have hlt := ((quantCell pal S s.bg).code.getD i 0#2).isLt
  rw [State.shownColor, hcode, hscr, hcol, quantCell_scr, quantCell_col]
  generalize ((quantCell pal S s.bg).code.getD i 0#2).toNat = e at hlt
  rcases (by omega : e = 0 ∨ e = 1 ∨ e = 2 ∨ e = 3) with rfl | rfl | rfl | rfl
  · exact getD_slot_zero.symm
  · exact BitVec.extractLsb'_append_eq_left
  · exact BitVec.extractLsb'_append_eq_right
  · exact extractLsb'_setWidth_color _

/-- A valid pixel byte is its colour index, zero-extended. -/
theorem setWidth_colorOfByte {v : Byte} (h : v.toNat ≤ 15) : (v.setWidth 4 : Color).setWidth 8 = v := by
  refine BitVec.eq_of_toNat_eq ?_
  simp only [BitVec.toNat_setWidth]
  omega

/-- Settles O30: the cell's bytes hold its image, whose codes name every sample's own colour. -/
theorem qcellReadsBackLosslessly : Obligations.QcellReadsBackLosslessly := by
  intro s c hc hw hh hb hv hbudget
  refine ⟨_, exec_qcell_of_ready hc hw hh hb hv, fun i hi => ?_⟩
  have himage : (s.writeCell c.toNat (quantCell s.pal (s.samples c.toNat) s.bg)).markDone.holdsImage c.toNat
      (quantCell s.pal (s.samples c.toNat) s.bg) := holdsImage_writeCell s c.toNat (length_quantCell_bm _ _ _)
  have hsample : (s.samples c.toNat)[i]? = some ((s.pixByte (sampleAddr c.toNat i)).setWidth 4) := by
    simp [samples_eq_map_range, hi]
  obtain ⟨e, hcode, hslot⟩ := cellsWithinTheBudgetAreLossless s.pal _ s.bg hbudget i _ hsample
  have hshown := himage.shownColor hi
  rw [hshown]
  simp only [State.markDone_bg, State.writeCell_bg, List.getD_eq_getElem?_getD, hcode, Option.getD_some, hslot]
  exact setWidth_colorOfByte (hv i hi)

end Sys2Proof.Machine

/-! PROOF. The Bitmap Packer (O18, O31 to O34) and the odd columns (O23, O34): what BGSEL and CONVERT answer on a
grid of colour indices, what the background is among the tallies, that writing an image a cell already holds changes no
output, and that cells do not depend on the pixels between their samples. -/

namespace Sys2Proof.Machine

/-! ### What the pixels read as -/

theorem readColors_congr {s t : State} {addrs : List Nat} (h : ∀ a ∈ addrs, t.pixByte a = s.pixByte a) :
    readColors t addrs = readColors s addrs := by
  induction addrs with
  | nil => rfl
  | cons a as ih =>
    rw [readColors, readColors, readColor, readColor, h a List.mem_cons_self,
      ih fun b hb => h b (List.mem_cons_of_mem a hb)]

theorem pixColors_congr {s t : State} {addrs : List Nat} (h : ∀ a ∈ addrs, t.pixByte a = s.pixByte a) :
    t.pixColors addrs = s.pixColors addrs :=
  List.map_congr_left fun a ha => by rw [h a ha]

/-! ### The background (42_bitmap_packer.md R120, R121) -/

/-- The background that `BgSelect` finds in a grid of colour indices (42_bitmap_packer.md R120). -/
def State.gridMode (s : State) : Color := modeColor (s.pixColors gridAddrs)

theorem validPixels_gridAddrs_iff {s : State} :
    s.validPixels gridAddrs ↔ ∀ a < 64000, (s.pixByte a).toNat ≤ 15 := by
  simp [State.validPixels, mem_gridAddrs, Config.pixelCount]

theorem toNat_setWidth_color_le (k : Color) : (k.setWidth 8 : Byte).toNat ≤ 15 := by
  rw [BitVec.toNat_setWidth_of_le (by omega)]
  omega

/-- Of a valid pixel it is the same to compare the byte or the colour. -/
theorem byte_eq_color_iff {v : Byte} (h : v.toNat ≤ 15) (k : Color) :
    v = k.setWidth 8 ↔ (v.setWidth 4 : Color) = k := by
  constructor
  · rintro rfl
    exact BitVec.setWidth_setWidth_of_le k (by omega)
  · rintro rfl
    exact (setWidth_colorOfByte h).symm

/-- `HIST[k]` is the number of times that `k` occurs among the colours of the grid. -/
theorem tally_eq_count {s : State} (h : s.validPixels gridAddrs) (k : Color) :
    s.tally k = (s.pixColors gridAddrs).count k := by
  rw [State.tally, List.range_eq_range', State.pixColors, List.count, List.countP_map]
  refine List.countP_congr fun a ha => ?_
  simpa using byte_eq_color_iff (h a ha) k

/-- The background is the lowest of the colours that the most pixels hold. -/
theorem tally_gridMode {s : State} (h : s.validPixels gridAddrs) (k : Color) :
    s.tally k ≤ s.tally s.gridMode ∧ (k < s.gridMode → s.tally k < s.tally s.gridMode) := by
  simp only [tally_eq_count h]
  exact modeColor_spec _ k

/-- BGSEL on a grid of colour indices. -/
theorem exec_bgsel_of_valid {s : State} (hs : s.shapeOk = true) (hv : s.validPixels gridAddrs) :
    exec .bgsel s = .next (s.setBackground s.gridMode).markDone := by
  have hgrid : readColors s gridAddrs = .ok (s.pixColors gridAddrs) := readColors_eq_ok.2 ⟨hv, rfl⟩
  rw [exec_eq_finish, commandOutcome, selectBackground, hs, bgSelect, hgrid]
  rfl

/-- Settles O18: the colour that BGSEL writes is the mode, whose counts are the tallies. -/
theorem bgselSelectsTheMode : Obligations.BgselSelectsTheMode := by
  intro s hw hh hv
  have hvalid := validPixels_gridAddrs_iff.2 hv
  exact ⟨s.gridMode, exec_bgsel_of_valid (shapeOk_iff.2 ⟨hw, hh⟩) hvalid, tally_gridMode hvalid⟩

/-! ### CONVERT (42_bitmap_packer.md R123, R124) -/

/-- The state that CONVERT leaves where it selects the background `bg` and raises no fault. -/
def State.converted (s : State) (bg : Color) : State :=
  ((s.writeCells 0 (gridImages s bg)).setBackground bg).markDone

@[simp] theorem State.converted_bg (s : State) (bg : Color) : (s.converted bg).bg = bg := rfl

/-- `BG` and the flags are not among the bytes that hold a cell's image. -/
theorem holdsImage_setBackground_markDone {s : State} {bg : Color} {c : Nat} {q : CellImage} :
    (s.setBackground bg).markDone.holdsImage c q ↔ s.holdsImage c q := Iff.rfl

theorem bmpByte_setBackground_markDone (s : State) (bg : Color) (o : Nat) :
    (s.setBackground bg).markDone.bmpByte o = s.bmpByte o := rfl

theorem scrByte_setBackground_markDone (s : State) (bg : Color) (d : Nat) :
    (s.setBackground bg).markDone.scrByte d = s.scrByte d := rfl

theorem colByte_setBackground_markDone (s : State) (bg : Color) (d : Nat) :
    (s.setBackground bg).markDone.colByte d = s.colByte d := rfl

/-- What CONVERT leaves as it was, and its flags. -/
theorem converted_eq (s : State) (bg : Color) :
    s.converted bg =
      { s with
        bmp := (s.converted bg).bmp, scr := (s.converted bg).scr, col := (s.converted bg).col,
        bg := bg, bgValid := true, busy := false, done := true } := by
  rw [State.converted, writeCells_eq, State.setBackground, State.markDone]

@[simp] theorem State.converted_bgValid (s : State) (bg : Color) : (s.converted bg).bgValid = true := by
  rw [converted_eq]

@[simp] theorem State.converted_fault (s : State) (bg : Color) : (s.converted bg).fault = s.fault := by
  rw [converted_eq]

/-- After CONVERT every cell's bytes hold the image of its samples. -/
theorem holdsImage_converted (s : State) (bg : Color) {c : Nat} (hc : c < 1000) :
    (s.converted bg).holdsImage c (quantCell s.pal (s.samples c) bg) := by
  have hlen : c < (gridImages s bg).length := (length_gridImages s bg).symm ▸ hc
  rw [State.converted, holdsImage_setBackground_markDone, ← getElem_gridImages s bg c hlen]
  exact holdsImage_writeCells s (gridImages_bm_length s bg) hlen

theorem bmpByte_converted_outside (s : State) (bg : Color) {o : Nat} (ho : 8000 ≤ o) :
    (s.converted bg).bmpByte o = s.bmpByte o := by
  rw [State.converted, bmpByte_setBackground_markDone, bmpByte_writeCells s 0 _ (gridImages_bm_length s bg), dif_neg]
  rw [length_gridImages, Config.cellCount]
  omega

theorem metadata_converted_outside (s : State) (bg : Color) {d : Nat} (hd : 1000 ≤ d) :
    (s.converted bg).scrByte d = s.scrByte d ∧ (s.converted bg).colByte d = s.colByte d := by
  have hout : ¬(0 ≤ d ∧ d - 0 < (gridImages s bg).length) := by
    rw [length_gridImages, Config.cellCount]
    omega
  rw [State.converted, scrByte_setBackground_markDone, colByte_setBackground_markDone, scrByte_writeCells,
    colByte_writeCells, dif_neg hout, dif_neg hout]
  exact ⟨rfl, rfl⟩

/-- CONVERT on a grid of colour indices. -/
theorem exec_convert_of_valid {s : State} (hs : s.shapeOk = true) (hv : s.validPixels gridAddrs) :
    exec .convert s = .next (s.converted s.gridMode) := by
  have hgrid : readColors s gridAddrs = .ok (s.pixColors gridAddrs) := readColors_eq_ok.2 ⟨hv, rfl⟩
  have hcells : cellImages s s.gridMode cellIndices = .ok (gridImages s s.gridMode) :=
    cellImages_of_valid _ fun c hc => validPixels_samples hv (mem_cellIndices.1 hc)
  rw [State.gridMode] at hcells
  simp only [exec_eq_finish, commandOutcome, convertGrid, hs, bgSelect, hgrid, hcells]
  rfl

/-- A CONVERT that raises no fault found the legal shape and a grid of colour indices. -/
theorem valid_of_exec_convert {s t : State} (ht : exec .convert s = .next t) (hfault : t.fault = false) :
    s.shapeOk = true ∧ s.validPixels gridAddrs ∧ t = s.converted s.gridMode := by
  obtain rfl := Host.Outcome.next.inj ((exec_eq_finish .convert s).symm.trans ht)
  rw [commandOutcome] at hfault ⊢
  rcases convertGrid_cases s with ⟨-, e⟩ | ⟨-, _, -, -, e⟩ | ⟨hs, hv, e⟩ <;> rw [e] at hfault ⊢
  · cases hfault
  · cases hfault
  · exact ⟨hs, hv, rfl⟩

/-- Settles O31: CONVERT leaves `s.converted s.gridMode`. -/
theorem convertWritesEveryCell : Obligations.ConvertWritesEveryCell := by
  intro s hw hh hv
  have hvalid := validPixels_gridAddrs_iff.2 hv
  refine ⟨_, exec_convert_of_valid (shapeOk_iff.2 ⟨hw, hh⟩) hvalid, converted_eq s _, tally_gridMode hvalid,
    fun c hc => ?_, fun o ho => bmpByte_converted_outside s _ ho,
    fun d hd => metadata_converted_outside s _ hd⟩
  rw [← samples_eq_map_range]
  exact holdsImage_converted s _ hc

/-! ### A grid of one colour (42_bitmap_packer.md R127 (ii)) -/

/-- In a grid of one colour every pixel counts for that colour and none for another. -/
theorem tally_of_oneColor {s : State} {k : Color} (h : ∀ a < 64000, s.pixByte a = k.setWidth 8) (j : Color) :
    s.tally j = if j = k then 64000 else 0 := by
  have hpix : ∀ a ∈ List.range Config.pixelCount, s.pixByte a = k.setWidth 8 := fun a ha =>
    h a (List.mem_range.1 ha)
  split
  case isTrue hj =>
    subst hj
    refine (List.countP_eq_length.2 fun a ha => ?_).trans List.length_range
    exact beq_iff_eq.2 (hpix a ha)
  case isFalse hj =>
    refine List.countP_eq_zero.2 fun a ha heq => hj ?_
    rw [hpix a ha, beq_iff_eq] at heq
    have hcolor := (byte_eq_color_iff (toNat_setWidth_color_le k) j).1 heq
    rw [← hcolor]
    exact BitVec.setWidth_setWidth_of_le k (by omega)

theorem gridMode_of_oneColor {s : State} {k : Color} (hv : s.validPixels gridAddrs)
    (h : ∀ a < 64000, s.pixByte a = k.setWidth 8) : s.gridMode = k := by
  have hle := (tally_gridMode hv k).1
  rw [tally_of_oneColor h, tally_of_oneColor h, if_pos rfl] at hle
  by_contra hne
  rw [if_neg hne] at hle
  omega

theorem samples_of_oneColor {s : State} {k : Color} {c : Nat} (hc : c < 1000)
    (h : ∀ a < 64000, s.pixByte a = k.setWidth 8) : s.samples c = List.replicate 32 k := by
  refine List.eq_replicate_iff.2 ⟨length_samples s c, fun b hb => ?_⟩
  obtain ⟨a, ha, rfl⟩ := List.mem_map.1 hb
  rw [h a (mem_gridAddrs.1 (sampleAddrs_subset_grid hc ha))]
  exact BitVec.setWidth_setWidth_of_le k (by omega)

/-- Settles O33: the background is `k`, and every cell holds the image of a cell of background only. -/
theorem oneColorGridConverts : Obligations.OneColorGridConverts := by
  intro s k hw hh hpix
  have hvalid : s.validPixels gridAddrs := validPixels_gridAddrs_iff.2 fun a ha =>
    (hpix a ha).symm ▸ toNat_setWidth_color_le k
  have hcell : ∀ c < 1000, (s.converted k).holdsImage c (quantCell s.pal (List.replicate 32 k) k) := fun c hc =>
    samples_of_oneColor hc hpix ▸ holdsImage_converted s k hc
  obtain ⟨-, -, hbm, hscr, hcol⟩ := backgroundOnlyCell s.pal k
  refine ⟨s.converted k, ?_, rfl, fun o ho => ?_, fun c hc => ?_⟩
  · rw [exec_convert_of_valid (shapeOk_iff.2 ⟨hw, hh⟩) hvalid, gridMode_of_oneColor hvalid hpix]
  · obtain ⟨hbmByte, -, -⟩ := hcell (o / 8) (by omega)
    have hbyte := hbmByte (o % 8) (by omega)
    rw [hbm, bmpOffset, Nat.div_add_mod'] at hbyte
    rw [hbyte, List.getD_replicate _ (by omega)]
  · obtain ⟨-, hscrByte, hcolByte⟩ := hcell c hc
    rw [hscrByte, hcolByte]
    exact ⟨hscr, hcol⟩

/-! ### Writing again what a cell holds (42_bitmap_packer.md R127 (i), (iii)) -/

/-- Whether a cell holds an image is a matter of the results. -/
theorem SameResults.holdsImage {s t : State} (h : SameResults s t) {c : Nat} {q : CellImage} (hq : s.holdsImage c q) :
    t.holdsImage c q := by
  obtain ⟨hbm, hscr, hcol⟩ := hq
  exact ⟨fun r hr => (h.bmp _).trans (hbm r hr), (h.scr c).trans hscr, (h.col c).trans hcol⟩

/-- The part of the results that R127 speaks of. -/
theorem SameResults.outputs {s t : State} (h : SameResults s t) :
    t.bg = s.bg ∧ ∀ o, t.bmpByte o = s.bmpByte o ∧ t.scrByte o = s.scrByte o ∧ t.colByte o = s.colByte o :=
  ⟨h.bg, fun o => ⟨h.bmp o, h.scr o, h.col o⟩⟩

theorem SameResults.markDone (s : State) : SameResults s s.markDone := .of_fields rfl rfl rfl rfl rfl rfl rfl

/-- To select a valid background again changes nothing. -/
theorem setBackground_of_valid {s : State} (hb : s.bgValid = true) : s.setBackground s.bg = s := by
  rw [State.setBackground, ← hb]

/-- To write the image that a cell holds changes no result. -/
theorem SameResults.writeCell {s : State} {c : Nat} {q : CellImage} (hlen : q.bm.length = 8) (hq : s.holdsImage c q) :
    SameResults s (s.writeCell c q) := by
  obtain ⟨hbm, hscr, hcol⟩ := hq
  refine ⟨fun o => ?_, fun d => ?_, fun d => ?_, rfl, rfl, rfl⟩
  · rw [bmpByte_writeCell, hlen]
    split
    case isTrue ho => rw [← hbm (o - c * 8) (by omega), bmpOffset, Nat.add_sub_cancel' ho.1]
    case isFalse => rfl
  · rw [scrByte_writeCell]
    split
    case isTrue hd => rw [hd, hscr]
    case isFalse => rfl
  · rw [colByte_writeCell]
    split
    case isTrue hd => rw [hd, hcol]
    case isFalse => rfl

/-- The cell loop over images that the cells hold changes no result. -/
theorem SameResults.writeCells {s : State} {c : Nat} {qs : List CellImage} (hlen : ∀ q ∈ qs, q.bm.length = 8)
    (hq : ∀ (i : Nat) (q : CellImage), qs[i]? = some q → s.holdsImage (c + i) q) :
    SameResults s (s.writeCells c qs) := by
  induction qs generalizing s c with
  | nil => exact .refl s
  | cons q qs ih =>
    have hfirst : SameResults s (s.writeCell c q) := .writeCell (hlen q List.mem_cons_self) (hq 0 q rfl)
    refine hfirst.trans (ih (fun p hp => hlen p (List.mem_cons_of_mem q hp)) fun i p hp => ?_)
    rw [Nat.add_assoc, Nat.add_comm 1 i]
    exact hfirst.holdsImage (hq (i + 1) p hp)

/-- CONVERT to the background that stands, over cells that hold their images against it, changes no result. -/
theorem SameResults.converted {s : State} (hb : s.bgValid = true)
    (hq : ∀ c < 1000, s.holdsImage c (quantCell s.pal (s.samples c) s.bg)) : SameResults s (s.converted s.bg) := by
  have hcells : SameResults s (s.writeCells 0 (gridImages s s.bg)) := by
    refine .writeCells (gridImages_bm_length s s.bg) fun i q hi => ?_
    obtain ⟨hlt, rfl⟩ := List.getElem?_eq_some_iff.1 hi
    rw [getElem_gridImages, Nat.zero_add]
    rw [length_gridImages] at hlt
    exact hq i hlt
  have hbg : (s.writeCells 0 (gridImages s s.bg)).setBackground s.bg = s.writeCells 0 (gridImages s s.bg) := by
    have := setBackground_of_valid (hcells.bgValid.trans hb)
    rwa [hcells.bg] at this
  rw [State.converted, hbg]
  exact hcells.trans (.markDone _)

/-- What a successful CONVERT leaves: a grid that it can read, its background, and every cell's image against that. -/
structure State.IsConverted (t : State) : Prop where
  shape : t.shapeOk = true
  valid : t.validPixels gridAddrs
  bgValid : t.bgValid = true
  mode : t.gridMode = t.bg
  cells : ∀ c < 1000, t.holdsImage c (quantCell t.pal (t.samples c) t.bg)

theorem isConverted_of_exec {s t : State} (ht : exec .convert s = .next t) (hfault : t.fault = false) :
    t.IsConverted := by
  obtain ⟨hshape, hvalid, heq⟩ := valid_of_exec_convert ht hfault
  obtain ⟨hpal, hpix, hw, hh, -⟩ := exec_fixed ht
  have hbytes : ∀ a, t.pixByte a = s.pixByte a := fun a => by rw [State.pixByte, State.pixByte, hpix]
  have hbg : t.bg = s.gridMode := by rw [heq, State.converted_bg]
  constructor
  case shape => rwa [State.shapeOk, hw, hh]
  case valid => exact fun a ha => (hbytes a).symm ▸ hvalid a ha
  case bgValid => rw [heq, State.converted_bgValid]
  case mode => rw [hbg, State.gridMode, State.gridMode, pixColors_congr fun a _ => hbytes a]
  case cells =>
    intro c hc
    rw [hpal, State.samples, pixColors_congr fun a _ => hbytes a, hbg, heq]
    exact holdsImage_converted s _ hc

theorem State.IsConverted.convert {t : State} (h : t.IsConverted) :
    ∃ u, exec .convert t = .next u ∧ u.fault = t.fault ∧ SameResults t u := by
  refine ⟨t.converted t.bg, ?_, State.converted_fault t t.bg, .converted h.bgValid h.cells⟩
  rw [exec_convert_of_valid h.shape h.valid, h.mode]

theorem State.IsConverted.qcell {t : State} (h : t.IsConverted) {c : BitVec 10} (hc : c.toNat < 1000) :
    ∃ u, exec (.qcell c) t = .next u ∧ u.fault = t.fault ∧ SameResults t u := by
  obtain ⟨hw, hh⟩ := shapeOk_iff.1 h.shape
  have hsamples := validPixels_sampleAddrs_iff.1 (validPixels_samples h.valid hc)
  exact ⟨_, exec_qcell_of_ready hc hw hh h.bgValid hsamples, rfl,
    (SameResults.writeCell (length_quantCell_bm _ _ _) (h.cells _ hc)).trans (.markDone _)⟩

/-- Settles O32: on what CONVERT leaves, both commands write only what is there. -/
theorem convertIsIdempotent : Obligations.ConvertIsIdempotent := by
  intro s t _ ht hfault
  have h := isConverted_of_exec ht hfault
  refine ⟨?_, fun c hc => ?_⟩
  · obtain ⟨u, hu, hufault, hsame⟩ := h.convert
    exact ⟨u, hu, hufault.trans hfault, hsame.outputs⟩
  · obtain ⟨u, hu, hufault, hsame⟩ := h.qcell hc
    exact ⟨u, hu, hufault.trans hfault, hsame.outputs⟩

/-! ### The columns between the samples (42_bitmap_packer.md R122, R127 (iv)) -/

/-- The state with another `PIX`. -/
def State.withPix (s : State) (m : Memory) : State := { s with pix := m }

/-- The end of a command does not look at `PIX`. -/
theorem finish_withPix (s : State) (m : Memory) (r : Except Trap State) :
    finish (s.withPix m) (r.map (State.withPix · m)) = (finish s r).withPix m := by
  cases r <;> rfl

theorem writeCells_withPix (s : State) (m : Memory) (c : Nat) (qs : List CellImage) :
    (s.withPix m).writeCells c qs = (s.writeCells c qs).withPix m := by
  induction qs generalizing s c with
  | nil => rfl
  | cons q qs ih => exact ih (s.writeCell c q) (c + 1)

section
variable {s : State} {m : Memory} (heven : ∀ a, a % 2 = 0 → (s.withPix m).pixByte a = s.pixByte a)
include heven

/-- Every sample of a cell stands in an even column. -/
theorem pixByte_withPix_of_sample {c a : Nat} (ha : a ∈ sampleAddrs c) : (s.withPix m).pixByte a = s.pixByte a := by
  obtain ⟨i, -, rfl⟩ := mem_sampleAddrs.1 ha
  exact heven _ (sampleAddr_even c i)

theorem cellImage_withPix (bg : Color) (c : Nat) : cellImage (s.withPix m) bg c = cellImage s bg c := by
  rw [cellImage, readColors_congr fun _ => pixByte_withPix_of_sample heven]
  rfl

theorem quantizeCell_withPix (c : Nat) :
    quantizeCell (s.withPix m) c = (quantizeCell s c).map (State.withPix · m) := by
  have himage : cellImage (s.withPix m) (s.withPix m).bg c = cellImage s s.bg c := cellImage_withPix heven s.bg c
  rw [quantizeCell, quantizeCell, himage]
  by_cases hc : Config.cellCount ≤ c
  · rw [if_pos hc, if_pos hc]
    rfl
  rw [if_neg hc, if_neg hc, show (s.withPix m).shapeOk = s.shapeOk from rfl,
    show (s.withPix m).bgValid = s.bgValid from rfl]
  cases s.shapeOk
  · rfl
  cases s.bgValid
  · rfl
  cases cellImage s s.bg c <;> rfl

theorem gridImages_withPix (bg : Color) : gridImages (s.withPix m) bg = gridImages s bg := by
  refine List.map_congr_left fun c _ => ?_
  rw [State.samples, pixColors_congr fun _ => pixByte_withPix_of_sample heven]
  rfl

theorem converted_withPix (bg : Color) : (s.withPix m).converted bg = (s.converted bg).withPix m := by
  rw [State.converted, gridImages_withPix heven, writeCells_withPix]
  rfl

end

/-- Settles O23: `QCELL` reads `PIX` at its samples only, all of them in even columns. -/
theorem oddColumnsDoNotReachACell : Obligations.OddColumnsDoNotReachACell := by
  intro s t m c heven ht
  obtain rfl := Host.Outcome.next.inj ((exec_eq_finish (.qcell c) s).symm.trans ht)
  have hresult : finish (s.withPix m) (quantizeCell (s.withPix m) c.toNat) =
      (finish s (quantizeCell s c.toNat)).withPix m := by
    rw [quantizeCell_withPix heven, finish_withPix]
  exact congrArg Host.Outcome.next hresult

/-- Settles O34: the two runs write the same images against the same background. -/
theorem oddColumnsOnlyCountInTheTally : Obligations.OddColumnsOnlyCountInTheTally := by
  intro s t u m _ heven ht htfault hu hufault hbg
  obtain ⟨-, -, rfl⟩ := valid_of_exec_convert ht htfault
  obtain ⟨-, -, rfl⟩ := valid_of_exec_convert hu hufault
  rw [State.converted_bg, State.converted_bg] at hbg
  rw [hbg]
  exact converted_withPix heven s.gridMode

end Sys2Proof.Machine

/-! PROOF. The control commands and the life of a command (O6, O11, O13, O14, O36, O50): its offer, the step that runs
it, and its end. -/

namespace Sys2Proof

/-! ### A command word on byte lanes (20_memory.md R53) -/

/-- The four byte lanes of a word, read together again, are the word. -/
theorem join_byteLanes (w : Word) :
    w.extractLsb' 24 8 ++ w.extractLsb' 16 8 ++ w.extractLsb' 8 8 ++ w.extractLsb' 0 8 = w := by
  apply BitVec.eq_of_toNat_eq
  simp only [toNat_join, toNat_field]
  have := w.isLt
  omega

theorem decodeBytes_bytesOfWord (w : Word) : decodeBytes (bytesOfWord w) = decodeWord w := by
  rw [bytesOfWord, decodeBytes, join_byteLanes]

/-- A table word stands for a command only where the command decoder reads it so. -/
theorem decodeWord_of_decodeTableWord {nbits w : Nat} {i : Instr} (h : decodeTableWord nbits w = some i) :
    decodeWord (tableWord nbits w) = .ok i := by
  rw [decodeTableWord, decodeBytes_bytesOfWord] at h
  split at h
  · cases hd : decodeWord (tableWord nbits w) with
    | error why => simp [hd, Except.toOption] at h
    | ok j => simpa [hd, Except.toOption] using h
  · cases h

end Sys2Proof

namespace Sys2Proof.Machine

/-! ### The offer (43_control_commands.md R142) -/

theorem offer_fault {s : State} (hf : s.fault = true) (w : Word) : s.offer w = s := if_pos hf

theorem offer_busy {s : State} (hf : s.fault = false) (hb : s.busy = true) (w : Word) : s.offer w = s.overrun := by
  simp [State.offer, hf, hb]

theorem offer_idle {s : State} (hf : s.fault = false) (hb : s.busy = false) (w : Word) : s.offer w = s.accept w := by
  simp [State.offer, hf, hb]

/-- A word write to `CMD` is an offer, answered OK whatever becomes of it. -/
theorem hostStep_writeCmd {s : State} (hrst : s.rst = false) (w : Word) :
    s.hostStep (.write 0x13000#17 4 w) = (s.offer w).reply .writeOk :=
  hostStep_write (r := .reg .cmd) w hrst (by decide) (by decide) rfl

/-- Settles O50, one case of the offer each. -/
theorem commandOffersFollowTheRule : Obligations.CommandOffersFollowTheRule := by
  intro s w hrst
  rw [hostStep_writeCmd hrst]
  refine ⟨fun hf => ?_, fun hf hb => ?_, fun hf hb => ⟨Config.busyTime s.draws, s.draws + 1, ?_⟩⟩
  · rw [offer_fault hf]
    rfl
  · rw [offer_busy hf hb]
    rfl
  · rw [offer_idle hf hb]
    rfl

/-! ### The step that runs a command (43_control_commands.md R143) -/

/-- A pending command is due when its time is over or no input is left (log entry 2). -/
theorem coreMoves_eq_true_iff {s : State} :
    s.coreMoves = true ↔ s.busy = true ∧ (s.busyLeft = 0 ∨ s.agenda = []) := by
  simp [State.coreMoves]

theorem step_of_coreMoves {s : State} (h : s.coreMoves = true) : step s = complete s := if_pos h

theorem complete_of_decodeWord {s : State} {i : Instr} (h : decodeWord s.pend = .ok i) : complete s = exec i s := by
  rw [complete, h]

/-- Settles O6. -/
theorem stepRunsTheDecodedCommand : Obligations.StepRunsTheDecodedCommand := fun _ _ hb hdue hi =>
  (step_of_coreMoves (coreMoves_eq_true_iff.2 ⟨hb, hdue⟩)).trans (complete_of_decodeWord hi)

/-- Settles O11: the placed word is pending and due, and its byte lanes decode as the word does. -/
theorem placedWordRunsNext : Obligations.PlacedWordRunsNext := fun s nbits w i h =>
  stepRunsTheDecodedCommand (s.withFetchWord nbits w) i rfl (.inl rfl) (decodeWord_of_decodeTableWord h)

/-! ### The end of a command (43_control_commands.md R140, R141, R143; 60_exceptions.md R157) -/

/-- Settles O13: NOP has no writes of its own before the flags of completion. -/
theorem nopOnlyCompletes : Obligations.NopOnlyCompletes := fun s => exec_eq_finish .nop s

/-- Settles O14: the background is all that SETBG writes before the flags of completion. -/
theorem setbgSetsTheBackground : Obligations.SetbgSetsTheBackground := fun s k => exec_eq_finish (.setbg k) s

theorem FaultCode.bits_range (code : FaultCode) : 1 ≤ code.bits.toNat ∧ code.bits.toNat ≤ 4 := by
  cases code <;> decide

/-- Settles O36: a fault is entered on the state before the command; a completion keeps the fault registers. -/
theorem commandsAreAllOrNothing : Obligations.CommandsAreAllOrNothing := by
  intro i s t hdone hfault ht
  rcases exec_cases i s with ⟨u, hu, e⟩ | ⟨trap, -, e⟩ <;> obtain rfl := Host.Outcome.next.inj (e.symm.trans ht)
  · have hnofault : u.markDone.fault = false := hu.fault.trans hfault
    refine ⟨rfl, ?_, fun h => absurd (hnofault.symm.trans h) Bool.false_ne_true, fun _ => ⟨hu.err, hu.errInfo⟩⟩
    rw [hnofault]
    rfl
  · exact ⟨rfl, hdone, fun _ => ⟨rfl, trap.code.bits_range⟩, fun h => by simp at h⟩

end Sys2Proof.Machine

/-! PROOF. Exceptions (O7, O9, O19, O37, O38, O42): what fault entry writes, which commands and words reach it, what
keeps the block in the fault state, and the transactions that the bus rejects. -/

namespace Sys2Proof.Machine

/-! ### Fault entry and the step (60_exceptions.md R153, R156, R162) -/

/-- In the fault state `irq` is 1 exactly where `IE` is. -/
theorem irq_of_fault {s : State} (h : s.fault = true) : s.irq = s.ie := by
  rw [State.irq, h, Bool.or_true, Bool.and_true]

/-- Settles O37. -/
theorem faultEntryWritesTheFaultRegisters : Obligations.FaultEntryWritesTheFaultRegisters := fun s t =>
  ⟨rfl, irq_of_fault (s.faultEntry_fault t), rfl, rfl, rfl, rfl⟩

theorem complete_of_illegal {s : State} {why : Illegal} (h : decodeWord s.pend = .error why) :
    complete s = .next (s.faultEntry (illegalTrap s)) := by
  rw [complete, h]

/-- Settles O7: the step is the completion, whose decoding fails. -/
theorem pendingIllegalWordFaults : Obligations.PendingIllegalWordFaults := fun _ _ hb hdue hw =>
  (step_of_coreMoves (coreMoves_eq_true_iff.2 ⟨hb, hdue⟩)).trans (complete_of_illegal hw)

theorem coreMoves_of_idle {s : State} (h : s.busy = false) : s.coreMoves = false := by
  rw [State.coreMoves, h, Bool.false_and]

/-- Settles O9: neither the Core nor the Host moves. -/
theorem idleBlockStaysAsItIs : Obligations.IdleBlockStaysAsItIs := by
  intro s hidle hnone
  rw [step, advance, coreMoves_of_idle hidle, if_neg Bool.false_ne_true, hnone]

/-! ### The faults of BGSEL and CONVERT (60_exceptions.md R151, R152, R155) -/

/-- A fault of any command's checks or reads is entered on the state before it. -/
theorem exec_of_error {s : State} {i : Instr} {e : Trap} (h : commandOutcome s i = .error e) :
    exec i s = .next (s.faultEntry e) := by
  rw [exec_eq_finish, h, finish]

section WholeGrid
variable {s : State} {i : Instr} (hi : i = .bgsel ∨ i = .convert)
include hi

theorem commandOutcome_of_wrongShape (hs : s.shapeOk = false) : commandOutcome s i = .error (shapeTrap s) := by
  rcases hi with rfl | rfl
  · rw [commandOutcome, selectBackground, hs]
    rfl
  · rw [commandOutcome, convertGrid, hs]
    rfl

theorem commandOutcome_of_bgSelect_error {e : Trap} (hs : s.shapeOk = true) (h : bgSelect s = .error e) :
    commandOutcome s i = .error e := by
  rcases hi with rfl | rfl
  · rw [commandOutcome, selectBackground, hs, h]
    rfl
  · rw [commandOutcome, convertGrid, hs, h]
    rfl

end WholeGrid

/-- The addresses of the grid before and after one of them. -/
theorem gridAddrs_eq_append {a : Nat} (ha : a < 64000) :
    gridAddrs = List.range' 0 a ++ a :: List.range' (a + 1) (63999 - a) := by
  have hlen : Config.pixelCount = a + (63999 - a + 1) := by rw [Config.pixelCount]; omega
  rw [gridAddrs, hlen, ← List.range'_succ, ← List.range'_append_1, Nat.zero_add]

/-- The lowest invalid pixel is the fault of background selection. -/
theorem bgSelect_of_firstInvalid {s : State} {a : Nat} (ha : a < 64000)
    (hbefore : ∀ b < a, (s.pixByte b).toNat ≤ 15) (hbad : 15 < (s.pixByte a).toNat) :
    bgSelect s = .error (pixelTrap (s.pixByte a) a) := by
  have hfront : s.validPixels (List.range' 0 a) := fun b hb => hbefore b (by simpa using hb)
  rw [bgSelect, readColors_eq_error.2 ⟨_, _, _, gridAddrs_eq_append ha, hfront, hbad, rfl⟩]

/-- Settles O19: the shape is checked first, then the pixels in ascending order. -/
theorem wholeGridCommandsFault : Obligations.WholeGridCommandsFault := by
  refine fun s i hi => ⟨fun hshape => ?_, fun hw hh a ha hbefore hbad => ?_⟩
  · have hs : s.shapeOk = false := by rw [← Bool.not_eq_true, shapeOk_iff]; exact hshape
    exact exec_of_error (commandOutcome_of_wrongShape hi hs)
  · exact exec_of_error
      (commandOutcome_of_bgSelect_error hi (shapeOk_iff.2 ⟨hw, hh⟩) (bgSelect_of_firstInvalid ha hbefore hbad))

/-! ### The fault state (60_exceptions.md R158) -/

/-- What stands of a fault in the registers is the same in both states. -/
structure SameFault (s t : State) : Prop where
  fault : t.fault = s.fault
  busy : t.busy = s.busy
  err : t.err = s.err
  errInfo : t.errInfo = s.errInfo

/-- In the fault state no write but that of the soft reset touches the fault: an offer is dropped. -/
theorem WriteEffect.sameFault {s u : State} {v : Word} {g : Region} (e : WriteEffect s v g u) (hf : s.fault = true)
    (hreset : g = .reg .ctrl → v.getLsbD 31 = false) : SameFault s u := by
  cases e with
  | accepted _ _ hno => exact absurd (hno.symm.trans hf) Bool.false_ne_true
  | reset hg hv => exact absurd ((hreset hg).symm.trans hv) Bool.false_ne_true
  | none | dropped | pixel | status | enable | width | height => exact ⟨rfl, rfl, rfl, rfl⟩

/-- In the fault state no input but a reset touches the fault. -/
theorem hostStep_sameFault {s : State} {e : HostEvent} (hf : s.fault = true) (hreset : e.isReset = false) :
    SameFault s (s.hostStep e) := by
  cases e with
  | read addr n =>
    obtain ⟨r, d, h⟩ := hostRead_frame s addr n
    rw [State.hostStep, h]
    exact ⟨rfl, rfl, rfl, rfl⟩
  | write addr n v =>
    rcases hostWrite_cases s addr n v with ⟨hw, u, hu, h⟩ | ⟨-, h⟩ <;> rw [State.hostStep, h]
    · have noReset (hg : regionOf addr = .reg .ctrl) : v.getLsbD 31 = false := by
        obtain ⟨rfl, rfl⟩ := writeAllowed_ctrl hw hg
        simpa [HostEvent.isReset] using hreset
      obtain ⟨fault, busy, err, errInfo⟩ := hu.sameFault hf noReset
      exact ⟨fault, busy, err, errInfo⟩
    · exact ⟨rfl, rfl, rfl, rfl⟩
  | rstLine b =>
    rcases driveRst_cases s b with ⟨hb, -, -⟩ | ⟨-, h⟩
    · exact absurd (hreset.symm.trans hb) Bool.false_ne_true
    · rw [State.hostStep, h]
      exact ⟨rfl, rfl, rfl, rfl⟩

/-- The two inputs that ask for a reset (70_reset_and_hazards.md R170). -/
theorem HostEvent.isReset_cases {e : HostEvent} (h : e.isReset = true) :
    e = .rstLine true ∨ ∃ v : Word, v.getLsbD 31 = true ∧ e = .write 0x13008#17 4 v := by
  cases e with
  | read addr n => cases h
  | write addr n v =>
    simp only [HostEvent.isReset, Bool.and_eq_true, beq_iff_eq] at h
    obtain ⟨⟨rfl, rfl⟩, hv⟩ := h
    exact .inr ⟨v, hv, rfl⟩
  | rstLine b => exact .inl (congrArg _ h)

/-- Settles O38: an idle block moves only by its next input, which is no reset. -/
theorem faultStaysUntilReset : Obligations.FaultStaysUntilReset := by
  intro s t hf hidle hline hsoft ht
  rcases step_cases s with ⟨hmoves, -⟩ | ⟨-, -, e⟩ | ⟨ev, rest, -, ha, e⟩
  · exact absurd ((coreMoves_of_idle hidle).symm.trans hmoves) Bool.false_ne_true
  · obtain rfl := Host.Outcome.next.inj (e.symm.trans ht)
    exact ⟨hf, hidle, rfl, rfl⟩
  · obtain rfl := Host.Outcome.next.inj (e.symm.trans ht)
    have noReset : ev.isReset = false := by
      refine Bool.eq_false_iff.2 fun hreset => ?_
      rcases HostEvent.isReset_cases hreset with rfl | ⟨v, hv, rfl⟩
      · exact hline rest ha
      · exact hsoft v rest hv ha
    obtain ⟨fault, busy, err, errInfo⟩ :=
      hostStep_sameFault (s := { s with agenda := rest, busyLeft := s.busyLeft - 1 }) hf noReset
    exact ⟨fault.trans hf, busy.trans hidle, err, errInfo⟩

/-! ### Rejected transactions (20_memory.md R51, R52; 60_exceptions.md R160) -/

/-- The place of a register's word from `0x13000` on (20_memory.md R56). -/
def Reg.place : Reg → Nat
  | .cmd => 0
  | .status => 1
  | .ctrl => 2
  | .err => 3
  | .errInfo => 4
  | .bg => 5
  | .idx => 6
  | .gridW => 7
  | .gridH => 8
  | .id => 9

/-- Where a region that is mapped stands (20_memory.md R51). -/
def Region.Spans (n : Nat) : Region → Prop
  | .pix _ => n < 0x0FA00
  | .bmp _ => 0x10000 ≤ n ∧ n < 0x11F40
  | .scr _ => 0x12000 ≤ n ∧ n < 0x123E8
  | .col _ => 0x12400 ≤ n ∧ n < 0x127E8
  | .reg r => 0x13000 + 4 * r.place ≤ n ∧ n < 0x13004 + 4 * r.place
  | .palRom _ => 0x13040 ≤ n ∧ n < 0x13080
  | .unmapped => True

theorem regAt_spans {n : Nat} (h : 0x13000 ≤ n) : (regAt ((n - 0x13000) / 4)).Spans n := by
  unfold regAt
  split_ifs <;> simp only [Region.Spans, Reg.place] <;> omega

/-- The address map gives an address a region that spans it. -/
theorem regionAt_spans (n : Nat) : (regionAt n).Spans n := by
  unfold regionAt
  iterate 4
    split
    · simp only [Region.Spans]
      omega
    split
    · trivial
  split
  · exact regAt_spans (by omega)
  split
  · simp only [Region.Spans]
    omega
  · trivial

/-- The transactions that fit a region (20_memory.md R52): bytes of the four memories, aligned words of the registers
and of the palette table. -/
theorem range_of_sizeFits {addr : HostAddr} {n : Nat} (h : sizeFits addr n = true) :
    (n = 1 ∧ (addr.toNat < 0x0FA00 ∨ (0x10000 ≤ addr.toNat ∧ addr.toNat < 0x11F40) ∨
      (0x12000 ≤ addr.toNat ∧ addr.toNat < 0x123E8) ∨ (0x12400 ≤ addr.toNat ∧ addr.toNat < 0x127E8))) ∨
    (n = 4 ∧ addr.toNat % 4 = 0 ∧ ((0x13000 ≤ addr.toNat ∧ addr.toNat < 0x13028) ∨
      (0x13040 ≤ addr.toNat ∧ addr.toNat < 0x13080))) := by
  have hspan : (regionOf addr).Spans addr.toNat := regionAt_spans addr.toNat
  unfold sizeFits at h
  cases hg : regionOf addr with simp only [hg, Region.Spans, Bool.and_eq_true, beq_iff_eq] at h hspan
  | pix | bmp | scr | col | palRom => omega
  | reg r =>
    have hplace : r.place ≤ 9 := by cases r <;> decide
    omega
  | unmapped => cases h

/-- The regions that take writes (20_memory.md R51): `PIX`, `CMD` to `CTRL`, `GRIDW` and `GRIDH`. -/
theorem range_of_writable {addr : HostAddr} (h : writable (regionOf addr) = true) :
    addr.toNat < 0x0FA00 ∨ (0x13000 ≤ addr.toNat ∧ addr.toNat < 0x1300C) ∨
      (0x1301C ≤ addr.toNat ∧ addr.toNat < 0x13024) := by
  have hspan : (regionOf addr).Spans addr.toNat := regionAt_spans addr.toNat
  cases hg : regionOf addr with rw [hg] at h hspan
  | pix a => exact .inl hspan
  | reg r =>
    cases r with simp only [Region.Spans, Reg.place] at hspan
    | cmd | status | ctrl | gridW | gridH => omega
    | err | errInfo | bg | idx | id => cases h
  | bmp | scr | col | palRom | unmapped => cases h

/-- A rejected write answers a bus error. -/
theorem hostStep_write_rejected {s : State} {addr : HostAddr} {n : Nat} (v : Word)
    (h : writeAllowed s addr n = false) : s.hostStep (.write addr n v) = s.reply .writeBusErr := by
  simp [State.hostStep, State.hostWrite, h]

theorem readAllowed_eq_true_iff {s : State} {addr : HostAddr} {n : Nat} :
    readAllowed s addr n = true ↔ s.rst = false ∧ sizeFits addr n = true := by
  simp [readAllowed]

theorem writeAllowed_eq_true_iff {s : State} {addr : HostAddr} {n : Nat} :
    writeAllowed s addr n = true ↔ readAllowed s addr n = true ∧ writable (regionOf addr) = true := by
  rw [writeAllowed, readAllowed, Bool.and_eq_true]

/-- Settles O42: an allowed transaction meets none of the conditions of R52. -/
theorem busErrorsChangeNothing : Obligations.BusErrorsChangeNothing := by
  refine fun s addr n v => ⟨fun hreject => ?_, fun hreadOnly => hostStep_write_rejected v ?_⟩
  · have hread : readAllowed s addr n = false := by
      refine Bool.eq_false_iff.2 fun hallowed => ?_
      obtain ⟨hrst, hsize⟩ := readAllowed_eq_true_iff.1 hallowed
      have hmisfit := hreject.resolve_left (Bool.eq_false_iff.1 hrst)
      have hrange := range_of_sizeFits hsize
      omega
    have hwrite : writeAllowed s addr n = false :=
      Bool.eq_false_iff.2 fun hallowed => Bool.eq_false_iff.1 hread (writeAllowed_eq_true_iff.1 hallowed).1
    exact ⟨hostStep_read_rejected hread, hostStep_write_rejected v hwrite⟩
  · refine Bool.eq_false_iff.2 fun hallowed => ?_
    have hrange := range_of_writable (writeAllowed_eq_true_iff.1 hallowed).2
    omega

end Sys2Proof.Machine

/-! PROOF. Reset and hazards (O12, O40, O56, O57, O58): the two sources of a reset, the bounded time of a pending
command, and the run: what its last `STATUS` read says, what no later input disturbs, and where its fault comes from. -/

namespace Sys2Proof.Machine

/-! ### The sources of a reset (70_reset_and_hazards.md R170, 43_control_commands.md R144) -/

/-- A word write to `CTRL` with bit 31 set is the soft reset. -/
theorem hostStep_softReset {s : State} {v : Word} (hrst : s.rst = false) (hv : v.getLsbD 31 = true) :
    s.hostStep (.write 0x13008#17 4 v) = s.performReset.reply .writeOk := by
  rw [hostStep_write (r := .reg .ctrl) v hrst (by decide) (by decide) rfl, State.writeRegion, State.writeCtrl,
    if_pos hv]

theorem driveRst_assert {s : State} (h : s.rst = false) : s.driveRst true = { s.performReset with rst := true } := by
  simp [State.driveRst, h]

theorem driveRst_again {s : State} (h : s.rst = true) : s.driveRst true = s := by
  rcases driveRst_cases s true with ⟨-, hlow, -⟩ | ⟨-, e⟩
  · exact absurd (hlow.symm.trans h) Bool.false_ne_true
  · rw [e, ← h]

/-- Settles O40, one source each, then the second assertion and the release. -/
theorem bothResetSourcesReset : Obligations.BothResetSourcesReset := fun _ =>
  ⟨fun _ hrst hv => hostStep_softReset hrst hv, driveRst_assert, driveRst_again, rfl⟩

/-! ### The end of a pending command (43_control_commands.md R143, 70_reset_and_hazards.md R178) -/

/-- The two ends of a completion: a command's writes and the flags, or the entry of a fault. -/
theorem complete_outcome (s : State) :
    (∃ u, CommandWrites s u ∧ complete s = .next u.markDone) ∨ ∃ trap, complete s = .next (s.faultEntry trap) := by
  rcases complete_cases s with ⟨-, -, e⟩ | ⟨i, -, e⟩
  · exact .inr ⟨_, e⟩
  · rw [e]
    exact (exec_cases i s).imp_right fun ⟨trap, _, h⟩ => ⟨trap, h⟩

/-- A completion always answers, with an idle block. -/
theorem complete_ends (s : State) : ∃ t, complete s = .next t ∧ t.busy = false := by
  rcases complete_outcome s with ⟨u, -, e⟩ | ⟨trap, e⟩ <;> exact ⟨_, e, rfl⟩

/-- A step of a busy block ends its command, or uses up one of the inputs that may come before that. -/
theorem step_of_busy {s : State} (hb : s.busy = true) :
    ∃ t, step s = .next t ∧ (t.busy = false ∨ t.busy = true ∧ t.busyLeft + 1 = s.busyLeft) := by
  rcases step_cases s with ⟨-, e⟩ | ⟨hwait, hnone, -⟩ | ⟨ev, rest, hwait, -, e⟩
  · obtain ⟨t, ht, hidle⟩ := complete_ends s
    exact ⟨t, e.trans ht, .inl hidle⟩
  · exact absurd (hwait.symm.trans (coreMoves_eq_true_iff.2 ⟨hb, .inr hnone⟩)) Bool.false_ne_true
  · refine ⟨_, e, (Bool.eq_false_or_eq_true _).symm.imp_right fun hbusy => ⟨hbusy, ?_⟩⟩
    have hleft : s.busyLeft ≠ 0 := fun h0 =>
      absurd (hwait.symm.trans (coreMoves_eq_true_iff.2 ⟨hb, .inl h0⟩)) Bool.false_ne_true
    obtain ⟨d, o, i, l, rs, n, h⟩ :=
      hostStep_of_busy (s := { s with agenda := rest, busyLeft := s.busyLeft - 1 }) hb hbusy
    rw [State.takeEvent, h]
    exact Nat.succ_pred_eq_of_ne_zero hleft

theorem run_succ {M : Host.Core} {s t : M.State} (h : M.step s = .next t) (k : Nat) : M.run (k + 1) s = M.run k t := by
  rw [Host.Core.run, h]

/-- Settles O12, by induction on the inputs that may still come before the completion. -/
theorem pendingCommandEnds : Obligations.PendingCommandEnds := by
  intro s hb
  generalize hn : s.busyLeft = n
  induction n generalizing s with
  | zero =>
    obtain ⟨t, ht, hidle | ⟨-, hleft⟩⟩ := step_of_busy hb
    · exact ⟨1, t, Nat.le_refl 1, run_succ (M := Sys2Proof.core) ht 0, hidle⟩
    · omega
  | succ n ih =>
    obtain ⟨t, ht, hidle | ⟨hbusy, hleft⟩⟩ := step_of_busy hb
    · exact ⟨1, t, by omega, run_succ (M := Sys2Proof.core) ht 0, hidle⟩
    · obtain ⟨k, u, hk, hrun, hidle⟩ := ih t hbusy (by omega)
      exact ⟨k + 1, u, by omega, (run_succ (M := Sys2Proof.core) ht k).trans hrun, hidle⟩

/-! ### What leaves the fault and the results as they are -/

/-- Neither the fault registers, nor BUSY, nor the results differ. -/
structure Undisturbed (s t : State) : Prop where
  sameFault : SameFault s t
  sameResults : SameResults s t

/-- The fields in which undisturbed states may differ. -/
theorem Undisturbed.of_update {s : State} {pix : Memory} {pend : Word} {done ovr ie rst : Bool}
    {gridW gridH : BitVec 16} {agenda : List HostEvent} {replies : List Reply} {busyLeft draws : Nat} :
    Undisturbed s
      { s with
        pix := pix, pend := pend, done := done, ovr := ovr, ie := ie, rst := rst, gridW := gridW, gridH := gridH,
        agenda := agenda, replies := replies, busyLeft := busyLeft, draws := draws } :=
  ⟨⟨rfl, rfl, rfl, rfl⟩, .of_fields rfl rfl rfl rfl rfl rfl rfl⟩

theorem Undisturbed.trans {s t u : State} (h : Undisturbed s t) (k : Undisturbed t u) : Undisturbed s u :=
  ⟨⟨k.sameFault.fault.trans h.sameFault.fault, k.sameFault.busy.trans h.sameFault.busy,
    k.sameFault.err.trans h.sameFault.err, k.sameFault.errInfo.trans h.sameFault.errInfo⟩,
    h.sameResults.trans k.sameResults⟩

/-- An input that starts a command or ends one by a reset. -/
def HostEvent.intervenes (e : HostEvent) : Prop := e.isOffer = true ∨ e.isReset = true

/-- An input disturbs nothing, or it is an offer or a reset, after which no fault stands. -/
theorem hostStep_disturbs (s : State) (e : HostEvent) :
    Undisturbed s (s.hostStep e) ∨ e.intervenes ∧ (s.hostStep e).fault = false := by
  cases e with
  | read addr n =>
    obtain ⟨r, d, h⟩ := hostRead_frame s addr n
    rw [State.hostStep, h]
    exact .inl .of_update
  | write addr n v =>
    rcases hostWrite_cases s addr n v with ⟨hw, u, hu, h⟩ | ⟨-, h⟩ <;> rw [State.hostStep, h]
    · cases hu with
      | none | dropped | pixel | status | enable | width | height => exact .inl .of_update
      | accepted hg _ hf =>
        obtain ⟨rfl, rfl⟩ := writeAllowed_cmd hw hg
        exact .inr ⟨.inl rfl, hf⟩
      | reset hg hv =>
        obtain ⟨rfl, rfl⟩ := writeAllowed_ctrl hw hg
        exact .inr ⟨.inr hv, rfl⟩
    · exact .inl .of_update
  | rstLine b =>
    rcases driveRst_cases s b with ⟨hb, -, h⟩ | ⟨-, h⟩ <;> rw [State.hostStep, h]
    · exact .inr ⟨.inr hb, rfl⟩
    · exact .inl .of_update

/-- What a step does to the fault and the results: the end of a command changes them, or nothing does, or an input that
starts or ends a command. -/
theorem step_disturbs {s t : State} (h : step s = .next t) :
    (s.busy = true ∧ ((∃ u, CommandWrites s u ∧ t = u.markDone) ∨ ∃ trap, t = s.faultEntry trap)) ∨
      Undisturbed s t ∨ (∃ e ∈ s.agenda, e.intervenes) ∧ t.fault = false := by
  rcases step_cases s with ⟨hm, e⟩ | ⟨-, -, e⟩ | ⟨ev, rest, -, ha, e⟩
  · refine .inl ⟨(coreMoves_eq_true_iff.1 hm).1, ?_⟩
    rcases complete_outcome s with ⟨u, hu, hc⟩ | ⟨trap, hc⟩ <;>
      obtain rfl := Host.Outcome.next.inj ((e.trans hc).symm.trans h)
    · exact .inl ⟨u, hu, rfl⟩
    · exact .inr ⟨trap, rfl⟩
  · obtain rfl := Host.Outcome.next.inj (e.symm.trans h)
    exact .inr (.inl .of_update)
  · obtain rfl := Host.Outcome.next.inj (e.symm.trans h)
    refine .inr ((hostStep_disturbs { s with agenda := rest, busyLeft := s.busyLeft - 1 } ev).imp
      (Undisturbed.of_update.trans ·) fun ⟨hi, hf⟩ => ⟨⟨ev, ?_, hi⟩, hf⟩)
    rw [ha]
    exact List.mem_cons_self

/-- Inputs leave the agenda and never enter it. -/
theorem step_agenda_subset {s t : State} (h : step s = .next t) : t.agenda ⊆ s.agenda := by
  rcases step_cases s with ⟨-, e⟩ | ⟨-, -, e⟩ | ⟨ev, rest, -, ha, e⟩
  · rcases complete_outcome s with ⟨u, hu, hc⟩ | ⟨trap, hc⟩ <;>
      obtain rfl := Host.Outcome.next.inj ((e.trans hc).symm.trans h)
    · rw [State.markDone_agenda, hu.agenda]
      exact List.Subset.refl _
    · exact List.Subset.refl _
  · obtain rfl := Host.Outcome.next.inj (e.symm.trans h)
    exact List.Subset.refl _
  · obtain rfl := Host.Outcome.next.inj (e.symm.trans h)
    rw [State.takeEvent, hostStep_agenda, ha]
    exact List.subset_cons_self ev rest

/-- An idle block that no input intervenes in stays undisturbed. -/
theorem Steps.undisturbed {s t : State} (h : Steps s t) (hidle : s.busy = false)
    (hquiet : ∀ e ∈ s.agenda, ¬e.intervenes) : Undisturbed s t ∧ t.agenda ⊆ s.agenda := by
  induction h with
  | refl => exact ⟨.of_update, List.Subset.refl _⟩
  | @tail t u _ hstep ih =>
    obtain ⟨hsame, hsub⟩ := ih
    refine ⟨hsame.trans ?_, List.Subset.trans (step_agenda_subset hstep) hsub⟩
    rcases step_disturbs hstep with ⟨hb, -⟩ | hu | ⟨⟨e, he, hi⟩, -⟩
    · exact absurd ((hsame.sameFault.busy.trans hidle).symm.trans hb) Bool.false_ne_true
    · exact hu
    · exact absurd hi (hquiet e (hsub he))

/-! ### The last read of a run (70_reset_and_hazards.md R180) -/

theorem RunEnds.steps {s t : State} {es : List HostEvent} {w : Word} (h : RunEnds s es t w) : Steps s t := by
  obtain ⟨u, -, hu, -, hstep, -⟩ := h.read
  exact hu.tail hstep

/-- A completion answers no transaction. -/
theorem complete_replies {s t : State} (h : complete s = .next t) : t.replies = s.replies := by
  rcases complete_outcome s with ⟨u, hu, hc⟩ | ⟨trap, hc⟩ <;> obtain rfl := Host.Outcome.next.inj (hc.symm.trans h)
  · exact hu.replies
  · rfl

/-- A step that answers a `STATUS` read takes it as its input, with the line released: the word is `STATUS`. -/
theorem status_of_step {s t : State} {rest : List HostEvent} {w : Word} (ha : s.agenda = statusRead :: rest)
    (hstep : step s = .next t) (hreply : t.replies = s.replies ++ [.readOk w]) :
    w = t.statusWord ∧ t.rst = false := by
  rcases step_cases s with ⟨-, e⟩ | ⟨-, hnone, -⟩ | ⟨ev, later, -, ha', e⟩
  · rw [complete_replies (e.symm.trans hstep)] at hreply
    simp at hreply
  · exact absurd (ha.symm.trans hnone) (List.cons_ne_nil _ _)
  · obtain ⟨rfl, rfl⟩ := List.cons.inj (ha.symm.trans ha')
    obtain rfl := Host.Outcome.next.inj (e.symm.trans hstep)
    cases hrst : s.rst with
    | false =>
      rw [takeEvent_statusRead hrst] at hreply ⊢
      have hw : w = s.statusWord := by simpa using hreply.symm
      exact ⟨hw, hrst⟩
    | true =>
      have hno : readAllowed { s with agenda := rest, busyLeft := s.busyLeft - 1 } 0x13004#17 4 = false := by
        simp [readAllowed, hrst]
      rw [State.takeEvent, statusRead, hostStep_read_rejected hno] at hreply
      simp at hreply

theorem RunEnds.status {s t : State} {es : List HostEvent} {w : Word} (h : RunEnds s es t w) :
    w = t.statusWord ∧ t.rst = false := by
  obtain ⟨u, -, -, ha, hstep, hreply⟩ := h.read
  exact status_of_step ha hstep hreply

/-- The flags of the last read's word are those of the state at the end, and BUSY is 0 there. -/
theorem RunEnds.flags {s t : State} {es : List HostEvent} {w : Word} (h : RunEnds s es t w) :
    t.busy = false ∧ w.getLsbD 2 = t.fault ∧ w.getLsbD 3 = t.ovr := by
  have hidle := h.idle
  obtain ⟨rfl, -⟩ := h.status
  rw [getLsbD_statusWord] at hidle
  exact ⟨hidle, getLsbD_statusWord t 2, getLsbD_statusWord t 3⟩

/-- Settles O58: the word's flags are those of the end. -/
theorem wellEndedRunHasNoFaultOrOverrun : Obligations.WellEndedRunHasNoFaultOrOverrun := by
  intro s es t w ⟨hrun, hnofault, hnoovr⟩
  obtain ⟨hidle, hfault, hovr⟩ := hrun.flags
  exact ⟨hfault.symm.trans hnofault, hovr.symm.trans hnoovr, hidle, hrun.status.2⟩

/-- Settles O56: the block at the end is idle, and no input to come intervenes. -/
theorem resultsOfAnEndedRunAreStable : Obligations.ResultsOfAnEndedRunAreStable := by
  intro s es t w hrun
  obtain ⟨hidle, -⟩ := hrun.flags
  refine ⟨hrun.status.1, hidle, fun u hquiet hu => ?_⟩
  obtain ⟨hsame, -⟩ := hu.undisturbed hidle fun e he hi => by
    obtain ⟨hoffer, hreset⟩ := hquiet e he
    rcases hi with hi | hi
    · exact absurd (hoffer.symm.trans hi) Bool.false_ne_true
    · exact absurd (hreset.symm.trans hi) Bool.false_ne_true
  exact ⟨hsame.sameFault.busy.trans hidle, hsame.sameResults⟩

/-! ### Where the fault of a run comes from (70_reset_and_hazards.md R180) -/

/-- Since `s` a command's completion has faulted, and `t` still holds its fault and the results before it. -/
def FaultedSince (s t : State) : Prop :=
  ∃ u v : State, Steps s u ∧ u.busy = true ∧ u.fault = false ∧ step u = .next v ∧ v.fault = true ∧ Steps v t ∧
    SameResults u t ∧ t.fault = true ∧ t.err = v.err ∧ t.errInfo = v.errInfo

/-- A fault's entry leaves the results, so its own step is the one sought. -/
theorem FaultedSince.of_faultEntry {s u : State} {trap : Trap} (hsteps : Steps s u) (hb : u.busy = true)
    (hf : u.fault = false) (h : step u = .next (u.faultEntry trap)) : FaultedSince s (u.faultEntry trap) :=
  ⟨u, _, hsteps, hb, hf, h, rfl, .refl, .of_fields rfl rfl rfl rfl rfl rfl rfl, rfl, rfl, rfl⟩

theorem FaultedSince.step {s t t' : State} (h : FaultedSince s t) (ht : step t = .next t') (same : Undisturbed t t') :
    FaultedSince s t' := by
  obtain ⟨u, v, hsu, hb, hf, huv, hvf, hvt, hres, htf, herr, hinfo⟩ := h
  obtain ⟨⟨fault, -, err, errInfo⟩, results⟩ := same
  exact ⟨u, v, hsu, hb, hf, huv, hvf, hvt.tail ht, hres.trans results, fault.trans htf, err.trans herr,
    errInfo.trans hinfo⟩

theorem State.afterReset.noFault {s : State} (h : s.afterReset) : s.fault = false := by
  obtain ⟨-, ⟨p, rfl⟩ | e⟩ := h
  · rfl
  · rw [e]
    rfl

/-- A fault that stands after a reset is that of an idle block, from a completion since that reset. -/
theorem Steps.faultedSince {s t : State} (h : Steps s t) (hs : s.afterReset) (hf : t.fault = true) :
    t.busy = false ∧ FaultedSince s t := by
  induction h with
  | refl => exact absurd (hs.noFault.symm.trans hf) Bool.false_ne_true
  | @tail t t' hst ht ih =>
    rcases step_disturbs ht with ⟨hb, hend⟩ | same | ⟨-, hno⟩
    · have hnofault : t.fault = false :=
        Bool.eq_false_iff.2 fun h => absurd ((ih h).1.symm.trans hb) Bool.false_ne_true
      rcases hend with ⟨u, hu, rfl⟩ | ⟨trap, rfl⟩
      · exact absurd ((hu.fault.trans hnofault).symm.trans hf) Bool.false_ne_true
      · exact ⟨rfl, .of_faultEntry hst hb hnofault ht⟩
    · obtain ⟨hidle, hsince⟩ := ih (same.sameFault.fault.symm.trans hf)
      exact ⟨same.sameFault.busy.trans hidle, hsince.step ht same⟩
    · exact absurd (hno.symm.trans hf) Bool.false_ne_true

/-- Settles O57: the fault that the last read shows stands at the end of steps that began with a reset. -/
theorem badlyEndedRunKeepsEarlierResults : Obligations.BadlyEndedRunKeepsEarlierResults := by
  intro s es t w ⟨hrun, hfault⟩
  obtain ⟨-, hflag, -⟩ := hrun.flags
  exact (hrun.steps.faultedSince hrun.reset (hflag.symm.trans hfault)).2

end Sys2Proof.Machine

/-! PROOF. Every step answers a state (O10): the cases of a step are the Core's completion, the idle block
and the host's next input, and each of them answers a state. -/

namespace Sys2Proof.Machine

/-- Settles O10: only the completion needs an argument, that a command and a fault's entry both answer a state. -/
theorem everyStepAnswersANextState : Obligations.EveryStepAnswersANextState := by
  intro s
  rcases step_cases s with ⟨-, hcomplete⟩ | ⟨-, -, hidle⟩ | ⟨_, _, -, -, hinput⟩
  · obtain ⟨t, ht, -⟩ := complete_ends s
    exact ⟨t, hcomplete.trans ht⟩
  · exact ⟨s, hidle⟩
  · exact ⟨_, hinput⟩

end Sys2Proof.Machine
